-- ==== Sys2Proof/Word.lean ====
section
/-! DEFINITION. The word types of the block: bytes, 16-bit register words, 22-bit guest addresses. -/

namespace Sys2Proof

/-- One byte of guest memory or of a frame. -/
abbrev Byte := BitVec 8

/-- One register-window slot, descriptor word or status word (`REG_BITS` = 16, rule R10). -/
abbrev Word := BitVec 16

/-- A guest (bus) address (`ADDR_BITS` = 22, rule R10). Sums wrap modulo 2^22 (rule R37). -/
abbrev Addr := BitVec 22

end Sys2Proof
end

