-- ==== Sys2Proof/Syntax.lean ====
section
/-! DEFINITION. The operations of the block, one constructor for each row of spec/opcode_table.json (rules R76 to R78),
and the named things their operands speak of. -/

namespace Sys2Proof

/-- The two controller instances (`NINST` = 2, rules R3 and R214). -/
inductive Inst where
  | i0
  | i1
  deriving DecidableEq, Repr

/-- The active mode of an instance (rule R19). Legacy and compatible are the classic modes. -/
inductive Mode where
  | legacy
  | compatible
  | turbo
  deriving DecidableEq, Repr

/-- The status a transport write completes with (rule R183). -/
inductive TxStatus where
  | ok
  | fail
  deriving DecidableEq, Repr

/-- An operation of the block: a register-window access of one slot, in the class its instance's mode forms
(rule R76), or an environment event (rule R77). A write carries the 16-bit bus data `d`. -/
inductive Instr where
  /-- `L.RD.SA0`: read (class 00, legacy mode), rule R103. -/
  | lRdSa0 (i : Inst)
  /-- `L.RD.SA1`: read (class 00, legacy mode), rule R103. -/
  | lRdSa1 (i : Inst)
  /-- `L.RD.SA2`: read (class 00, legacy mode), rule R104. -/
  | lRdSa2 (i : Inst)
  /-- `L.RD.SA3`: read (class 00, legacy mode), rule R104. -/
  | lRdSa3 (i : Inst)
  /-- `L.RD.SA4`: read (class 00, legacy mode), rule R104. -/
  | lRdSa4 (i : Inst)
  /-- `L.RD.SA5`: read (class 00, legacy mode), rule R104. -/
  | lRdSa5 (i : Inst)
  /-- `L.RD.VAR`: read (class 00, legacy mode), rule R105. -/
  | lRdVar (i : Inst)
  /-- `L.RD.CSR`: read (class 00, legacy mode), rule R106. -/
  | lRdCsr (i : Inst)
  /-- `L.WR.SA0`: write (class 00, legacy mode), rule R107. -/
  | lWrSa0 (i : Inst) (d : Word)
  /-- `L.WR.SA1`: write (class 00, legacy mode), rule R107. -/
  | lWrSa1 (i : Inst) (d : Word)
  /-- `L.WR.RBDL_LO`: write (class 00, legacy mode), rule R108. -/
  | lWrRbdlLo (i : Inst) (d : Word)
  /-- `L.WR.RBDL_HI`: write (class 00, legacy mode), rule R109. -/
  | lWrRbdlHi (i : Inst) (d : Word)
  /-- `L.WR.XBDL_LO`: write (class 00, legacy mode), rule R110. -/
  | lWrXbdlLo (i : Inst) (d : Word)
  /-- `L.WR.XBDL_HI`: write (class 00, legacy mode), rule R111. -/
  | lWrXbdlHi (i : Inst) (d : Word)
  /-- `L.WR.VAR`: write (class 00, legacy mode), rule R112. -/
  | lWrVar (i : Inst) (d : Word)
  /-- `L.WR.CSR`: write (class 00, legacy mode), rule R113. -/
  | lWrCsr (i : Inst) (d : Word)
  /-- `C.RD.SA0`: read (class 01, compatible mode), rule R103. -/
  | cRdSa0 (i : Inst)
  /-- `C.RD.SA1`: read (class 01, compatible mode), rule R103. -/
  | cRdSa1 (i : Inst)
  /-- `C.RD.SA2`: read (class 01, compatible mode), rule R104. -/
  | cRdSa2 (i : Inst)
  /-- `C.RD.SA3`: read (class 01, compatible mode), rule R104. -/
  | cRdSa3 (i : Inst)
  /-- `C.RD.SA4`: read (class 01, compatible mode), rule R104. -/
  | cRdSa4 (i : Inst)
  /-- `C.RD.SA5`: read (class 01, compatible mode), rule R104. -/
  | cRdSa5 (i : Inst)
  /-- `C.RD.VAR`: read (class 01, compatible mode), rule R105. -/
  | cRdVar (i : Inst)
  /-- `C.RD.CSR`: read (class 01, compatible mode), rule R106. -/
  | cRdCsr (i : Inst)
  /-- `C.WR.SA0`: write (class 01, compatible mode), rule R107. -/
  | cWrSa0 (i : Inst) (d : Word)
  /-- `C.WR.SA1`: write (class 01, compatible mode), rule R107. -/
  | cWrSa1 (i : Inst) (d : Word)
  /-- `C.WR.RBDL_LO`: write (class 01, compatible mode), rule R108. -/
  | cWrRbdlLo (i : Inst) (d : Word)
  /-- `C.WR.RBDL_HI`: write (class 01, compatible mode), rule R109. -/
  | cWrRbdlHi (i : Inst) (d : Word)
  /-- `C.WR.XBDL_LO`: write (class 01, compatible mode), rule R110. -/
  | cWrXbdlLo (i : Inst) (d : Word)
  /-- `C.WR.XBDL_HI`: write (class 01, compatible mode), rule R111. -/
  | cWrXbdlHi (i : Inst) (d : Word)
  /-- `C.WR.VAR`: write (class 01, compatible mode), rule R112. -/
  | cWrVar (i : Inst) (d : Word)
  /-- `C.WR.CSR`: write (class 01, compatible mode), rule R113. -/
  | cWrCsr (i : Inst) (d : Word)
  /-- `T.RD.SA0`: read (class 10, turbo mode), rule R115. -/
  | tRdSa0 (i : Inst)
  /-- `T.RD.SA1`: read (class 10, turbo mode), rule R115. -/
  | tRdSa1 (i : Inst)
  /-- `T.RD.SA2`: read (class 10, turbo mode), rule R115. -/
  | tRdSa2 (i : Inst)
  /-- `T.RD.SA3`: read (class 10, turbo mode), rule R115. -/
  | tRdSa3 (i : Inst)
  /-- `T.RD.SA4`: read (class 10, turbo mode), rule R115. -/
  | tRdSa4 (i : Inst)
  /-- `T.RD.SA5`: read (class 10, turbo mode), rule R115. -/
  | tRdSa5 (i : Inst)
  /-- `T.RD.SRR`: read (class 10, turbo mode), rule R116. -/
  | tRdSrr (i : Inst)
  /-- `T.RD.RSV`: read (class 10, turbo mode), rule R117. -/
  | tRdRsv (i : Inst)
  /-- `T.WR.IGN0`: write (class 10, turbo mode), rule R118. -/
  | tWrIgn0 (i : Inst) (d : Word)
  /-- `T.WR.IGN1`: write (class 10, turbo mode), rule R118. -/
  | tWrIgn1 (i : Inst) (d : Word)
  /-- `T.WR.IBA_LO`: write (class 10, turbo mode), rule R119. -/
  | tWrIbaLo (i : Inst) (d : Word)
  /-- `T.WR.IBA_HI`: write (class 10, turbo mode), rule R120. -/
  | tWrIbaHi (i : Inst) (d : Word)
  /-- `T.WR.ICR`: write (class 10, turbo mode), rule R121. -/
  | tWrIcr (i : Inst) (d : Word)
  /-- `T.WR.IGN5`: write (class 10, turbo mode), rule R118. -/
  | tWrIgn5 (i : Inst) (d : Word)
  /-- `T.WR.SRQR`: write (class 10, turbo mode), rule R122. -/
  | tWrSrqr (i : Inst) (d : Word)
  /-- `T.WR.ARQR`: write (class 10, turbo mode), rule R123. -/
  | tWrArqr (i : Inst) (d : Word)
  /-- `ACK`: environment event, rules R77 and R199. -/
  | ack
  /-- `TICK`: environment event, rules R77 and R207. -/
  | tick (i : Inst)
  /-- `RXF`: environment event, rules R77 and R179. -/
  | rxf (i : Inst) (frame : List Byte)
  /-- `TXDONE`: environment event, rules R77 and R183. -/
  | txdone (i : Inst) (status : TxStatus) (tag : Nat)
  /-- `STDONE`: environment event, rules R77 and R114. -/
  | stdone (i : Inst)
  /-- `BUSRESET`: environment event, rules R77 and R219. -/
  | busreset
  /-- `POWERON`: environment event, rules R77 and R220. -/
  | poweron
  /-- `RESERVED.37`: code `11 0111`, which names no event (rule R78). -/
  | reserved37
  /-- `RESERVED.38-3F`: a code `11 1xxx`, which names no event (rule R78). -/
  | reserved38to3F (code : BitVec 6)
  deriving DecidableEq, Repr

end Sys2Proof
end

