-- ==== Sys2Proof/Config.lean ====
section
/-! DEFINITION. The implementation parameters of rule R10: the values the spec fixes, the structure `Config` of the values it
leaves OPEN (held in the state, so that a statement about every state holds for every choice), and the free values. -/

namespace Sys2Proof

/-- The configured device type of an instance (rules R2 and R18); it never changes. -/
inductive DeviceType where
  | legacy
  | compatible
  | turbo
  deriving DecidableEq, Repr

/-- A six-byte station or filter address, byte 0 first as on the wire (rule R36). -/
structure Mac where
  b0 : Byte
  b1 : Byte
  b2 : Byte
  b3 : Byte
  b4 : Byte
  b5 : Byte
  deriving DecidableEq, Repr

/-- The configuration of one instance (rule R18): `TYPE`, `MAC`, `ATTACHED`, `BASE`, `OPTION_SWITCH`. -/
structure UnitConfig where
  type : DeviceType
  mac : Mac
  attached : Bool
  base : Addr
  optionSwitch : Bool
  deriving DecidableEq, Repr

/-- The OPEN `TurboLayout` (rules R94 to R96, R134): bit positions of the turbo registers, byte offsets and bit positions
of a ring slot, byte offsets and bit positions of the init block (log 5). -/
structure TurboLayout where
  /-- SRQR `START` -/
  srqStart : Nat
  /-- ARQR `TRQ`, `RRQ`, `SR` -/
  arqTrq : Nat
  arqRrq : Nat
  arqSr : Nat
  /-- ICR `EN` -/
  icrEn : Nat
  /-- SRR `FES`, `NXM`, `TA`, and the low bit of the two-bit `RSP` -/
  srrFes : Nat
  srrNxm : Nat
  srrTa : Nat
  srrRsp : Nat
  /-- slot size and the byte offsets of its five words -/
  slotBytes : Nat
  slotAddrLo : Nat
  slotAddrHi : Nat
  /-- the low bit of `ADDR[21:16]` in the word at `slotAddrHi` -/
  slotAddrHiLo : Nat
  slotLenFlags : Nat
  slotStatus : Nat
  slotOwner : Nat
  /-- `LEN` field (low bit, width), `STP`, `ENP` -/
  lenLo : Nat
  lenBits : Nat
  stp : Nat
  enp : Nat
  /-- `CNT` field (low bit, width), `ERR`, `OVF` -/
  cntLo : Nat
  cntBits : Nat
  err : Nat
  ovf : Nat
  /-- `OWN`, `EOR` -/
  own : Nat
  eor : Nat
  /-- init-block byte offsets; of a ring base, those of its low word and of its high word -/
  ibFlags : Nat
  ibPhys : Nat
  ibHash : Nat
  ibOpts : Nat
  ibVector : Nat
  ibTimeout : Nat
  ibPassword : Nat
  passwordBytes : Nat
  ibRxRing : Nat
  ibRxRingHi : Nat
  ibTxRing : Nat
  ibTxRingHi : Nat
  /-- the low bit of bits 21:16 of the receive and of the transmit ring base, each in its own high word -/
  rxRingHiLo : Nat
  txRingHiLo : Nat
  /-- `PROM` bit of `t_flags` -/
  prom : Nat
  deriving DecidableEq, Repr

/-- The OPEN `SetupFlagBits` (rule R92): positions of `MC`, `PM` and of the low bits of `LED` and `SAN`. -/
structure SetupFlagBits where
  mc : Nat
  pm : Nat
  led : Nat
  san : Nat
  deriving DecidableEq, Repr

/-- A run of backed bus addresses and where its bytes are in the guest's physical memory: part of `GMEM`, the bus map
included (rules R55, R65, decision D36; log 7). -/
structure Region where
  base : Nat
  size : Nat
  target : Nat
  deriving DecidableEq, Repr

/-- The configuration of the block: every parameter of rule R10 that the spec leaves OPEN or configured. -/
structure Config where
  unit0 : UnitConfig
  unit1 : UnitConfig
  readqCap : Nat
  txbufMax : Nat
  sysidPeriod : Nat
  handshakeLo : Word
  handshakeHi : Word
  rxRingN : Nat
  txRingN : Nat
  layout : TurboLayout
  stOk : BitVec 3
  stNolink : BitVec 3
  txOkSw1 : Word
  txOkSw2 : Word
  txFailSw1 : Word
  writeFlagWord : Bool
  chainCap : Option Nat
  setupBits : SetupFlagBits
  gmem : List Region
  deriving DecidableEq, Repr

/-- The configuration of one instance. -/
def Config.unit (c : Config) : Inst → UnitConfig
  | .i0 => c.unit0
  | .i1 => c.unit1

/-! ### Values the spec fixes (rule R10; 93_implementation_defined.md G3 to G5, log 4) -/

/-- `ETH_MIN`: minimum frame length. -/
def ethMin : Nat := 60

/-- `ETH_MAX`: maximum frame length. -/
def ethMax : Nat := 1514

/-- `SETUP_LONG`: a longer setup frame carries the flags word (rule R92). -/
def setupLong : Nat := 128

/-- `SETUP_BANK2`: a longer setup frame carries addresses 7 to 13 (rule R91). -/
def setupBank2 : Nat := 112

/-- `SANITY_Q`: the sanity timeout in ticks for each select value (rule R128, decision D9). -/
def sanityQ (sel : BitVec 3) : Nat :=
  [1, 4, 16, 64, 240, 960, 3840, 15360].getD sel.toNat 0

/-- Bytes of a classic descriptor (`DESC_BYTES`). -/
def descBytes : Addr := 12

/-- Passes after which a walk that has not ended, and has shown no repeated state, counts as one that never ends: the
walk is run in laps of 1, 2, 4, … passes and this is the number of laps (log 12). -/
def hangLaps : Nat := 134217728

/-! ### The test configuration (rule R10, 95_test_vectors.md): what `State.reset` uses (log 3) -/

/-- The test `TurboLayout` of rules R94 to R96. -/
def TurboLayout.test : TurboLayout :=
  { srqStart := 0, arqTrq := 15, arqRrq := 7, arqSr := 1, icrEn := 0
    srrFes := 15, srrNxm := 14, srrTa := 13, srrRsp := 0
    slotBytes := 10, slotAddrLo := 0, slotAddrHi := 2, slotAddrHiLo := 0
    slotLenFlags := 4, slotStatus := 6, slotOwner := 8
    lenLo := 0, lenBits := 12, stp := 15, enp := 14
    cntLo := 0, cntBits := 12, err := 15, ovf := 14
    own := 15, eor := 14
    ibFlags := 0, ibPhys := 2, ibHash := 8, ibOpts := 16, ibVector := 18, ibTimeout := 20
    ibPassword := 22, passwordBytes := 6, ibRxRing := 28, ibRxRingHi := 30, ibTxRing := 32, ibTxRingHi := 34
    rxRingHiLo := 0, txRingHiLo := 0, prom := 15 }

/-- The test configuration: instance 0 of type turbo, instance 1 of type compatible, both attached. -/
def Config.test : Config :=
  { unit0 := { type := .turbo, mac := ⟨0x08, 0x00, 0x2B, 0x01, 0x02, 0x03⟩, attached := true
               base := 0o17774440, optionSwitch := false }
    unit1 := { type := .compatible, mac := ⟨0x08, 0x00, 0x2B, 0x04, 0x05, 0x06⟩, attached := true
               base := 0o17774460, optionSwitch := false }
    readqCap := 4, txbufMax := 1514, sysidPeriod := 8
    handshakeLo := 0xA5A5, handshakeHi := 0x5A5A
    rxRingN := 4, txRingN := 4
    layout := TurboLayout.test
    stOk := 0, stNolink := 1
    txOkSw1 := 0x0000, txOkSw2 := 0x0000, txFailSw1 := 0x4000
    writeFlagWord := false
    chainCap := none
    setupBits := { mc := 0, pm := 1, led := 2, san := 4 }
    gmem := [{ base := 0, size := 0x100000, target := 0 }] }

/-! ### Free values (rule R15 `Draw`): no body, so nothing is known of them (log 8) -/

/-- The n-th drawn byte: the high byte of an address-slot read (rules R103, R104, R115). -/
opaque Config.freeByte : Nat → Byte

/-- The n-th drawn word: the turbo read of slot 7 (rule R117). -/
opaque Config.freeWord : Nat → Word

/-- The n-th drawn bit: CSR.CA (rule R106). -/
opaque Config.freeBit : Nat → Bool

/-- The n-th drawn timing value of a failed transmit, before its bound (rules R90, R155). -/
opaque Config.freeTiming : Nat → BitVec 14

end Sys2Proof
end

