-- ==== Sys2Proof/Machine/Bits.lean ====
section
/-! DEFINITION. Bit fields and byte order: the notation of rules R11 and R12, and the little-endian words of rule R57. -/

namespace Sys2Proof.Machine

/-- A word with bit `n` equal to `b` and every other bit 0. -/
def bitWord (n : Nat) (b : Bool) : Word :=
  if b then BitVec.twoPow 16 n else 0

/-- The field of `bits` bits from bit `lo`, as a number (rule R11). -/
def fieldOf (w : Word) (lo bits : Nat) : Nat :=
  w.toNat / 2 ^ lo % 2 ^ bits

/-- A word holding `v` in the field of `bits` bits from bit `lo`. -/
def fieldWord (lo bits v : Nat) : Word :=
  BitVec.ofNat 16 (v % 2 ^ bits * 2 ^ lo)

/-- `neg16` of rule R12. -/
def neg16 (w : Word) : Word := 0 - w

/-- The byte at the lower address of a word (rule R57). -/
def lowByte (w : Word) : Byte := w.setWidth 8

/-- The byte at the higher address of a word (rule R57). -/
def highByte (w : Word) : Byte := (w >>> 8).setWidth 8

/-- `hi : lo`, the word of two bytes (rule R57). -/
def wordOf (hi lo : Byte) : Word := hi ++ lo

/-- `d[5:0] : lo`, a 22-bit address from a high-half write or field and a low half (rules R80, R81, R85). -/
def addrOf (d lo : Word) : Addr := d.setWidth 6 ++ lo

/-- Byte `k` of a byte string, 0 past its end. -/
def byteAt (f : List Byte) (k : Nat) : Byte := f.getD k 0

/-- Byte `k` of a six-byte address. -/
def macByte (m : Mac) : Nat → Byte
  | 0 => m.b0
  | 1 => m.b1
  | 2 => m.b2
  | 3 => m.b3
  | 4 => m.b4
  | _ => m.b5

/-- The six-byte address at the start of a byte string, missing bytes taken as 0 (rule R132). -/
def macOf (f : List Byte) : Mac :=
  ⟨byteAt f 0, byteAt f 1, byteAt f 2, byteAt f 3, byteAt f 4, byteAt f 5⟩

/-- One step of the checksum's addition with end-around carry (rule R93). -/
def foldCarry (c : Nat) : Nat :=
  if 0xFFFF < c then c - 0xFFFF else c

/-- The running sum of `ADDR_CHECKSUM` after one more pair of bytes (rule R93). -/
def checksumStep (c : Nat) (hi lo : Byte) : Nat :=
  foldCarry (foldCarry (c * 2) + (wordOf hi lo).toNat)

/-- The checksum as a word: `CHK[1] : CHK[0]` (rule R93). -/
def checksumWord (m : Mac) : Word :=
  let c := checksumStep (checksumStep (checksumStep 0 m.b0 m.b1) m.b2 m.b3) m.b4 m.b5
  if c = 0xFFFF then 0 else BitVec.ofNat 16 c

/-- `CHK[k]`, k = 0 or 1 (rules R36, R93). -/
def chkByte (m : Mac) : Nat → Byte
  | 0 => lowByte (checksumWord m)
  | _ => highByte (checksumWord m)

end Sys2Proof.Machine
end

