-- ==== Sys2Proof/WellFormed.lean ====
section
/-! DEFINITION. Which operations and which configurations are meaningful. -/

namespace Sys2Proof

/-- An operation is well formed when its fields fit its code: the one constructor that stands for several codes carries
one of its own, `11 1xxx` (rule R78). Every other field's type admits only what its encoding does. -/
def Instr.wellFormed : Instr → Bool
  | .reserved38to3F code => decide (0x38 ≤ code)
  | _ => true

/-- Two numbers of a list of bit positions or offsets never coincide. -/
def distinct (l : List Nat) : Bool := decide l.Nodup

/-- The bit positions of one 16-bit register: inside the word and not shared. -/
def bitsFit (l : List Nat) : Bool := distinct l && l.all (· < 16)

/-- The bit positions of a field. -/
def fieldBits (lo bits : Nat) : List Nat := (List.range bits).map (lo + ·)

/-- The words of a slot or of the init block at these byte offsets are even, inside `size` bytes, and do not overlap. -/
def wordsFit (offsets : List Nat) (size : Nat) : Bool :=
  distinct offsets && offsets.all fun o => o % 2 == 0 && o + 2 ≤ size

/-- The fields of the init block lie at rising offsets in the source's order and do not overlap (rule R96); the two words
of a ring base may stand in either order. -/
def TurboLayout.initRises (l : TurboLayout) : Bool :=
  decide (l.ibFlags + 2 ≤ l.ibPhys) && decide (l.ibPhys + 6 ≤ l.ibHash) && decide (l.ibHash + 8 ≤ l.ibOpts)
    && decide (l.ibOpts + 2 ≤ l.ibVector) && decide (l.ibVector + 2 ≤ l.ibTimeout)
    && decide (l.ibTimeout + 2 ≤ l.ibPassword) && decide (l.ibPassword + l.passwordBytes ≤ min l.ibRxRing l.ibRxRingHi)
    && decide (max l.ibRxRing l.ibRxRingHi + 2 ≤ min l.ibTxRing l.ibTxRingHi)
    && l.ibRxRing != l.ibRxRingHi && l.ibTxRing != l.ibTxRingHi

/-- A turbo layout is usable when the named bits and words of every format fit and do not overlap (rules R94 to R96), and,
which is the model's choice, `CNT` is at least as wide as `LEN`: the spec does not say what a narrower `CNT` would hold
(log 5). -/
def TurboLayout.wellFormed (l : TurboLayout) : Bool :=
  bitsFit [l.srqStart] && bitsFit [l.arqTrq, l.arqRrq, l.arqSr] && bitsFit [l.icrEn]
    && bitsFit ([l.srrFes, l.srrNxm, l.srrTa] ++ fieldBits l.srrRsp 2)
    && wordsFit [l.slotAddrLo, l.slotAddrHi, l.slotLenFlags, l.slotStatus, l.slotOwner] l.slotBytes
    && l.slotBytes % 2 == 0
    && bitsFit ([l.stp, l.enp] ++ fieldBits l.lenLo l.lenBits)
    && bitsFit ([l.err, l.ovf] ++ fieldBits l.cntLo l.cntBits) && decide (l.lenBits ≤ l.cntBits)
    && bitsFit [l.own, l.eor] && bitsFit [l.prom]
    && decide (l.slotAddrHiLo + 6 ≤ 16) && decide (l.rxRingHiLo + 6 ≤ 16) && decide (l.txRingHiLo + 6 ≤ 16)
    && [l.ibFlags, l.ibOpts, l.ibVector, l.ibTimeout, l.ibRxRing, l.ibRxRingHi, l.ibTxRing, l.ibTxRingHi].all (· % 2 == 0)
    && l.initRises

/-- The setup flags word's fields fit and do not overlap (rule R92). -/
def SetupFlagBits.wellFormed (b : SetupFlagBits) : Bool :=
  bitsFit ([b.mc, b.pm] ++ fieldBits b.led 2 ++ fieldBits b.san 3)

/-- The two register windows are at even addresses and do not overlap (decision D5), and, which is the model's choice, both
end inside the 22-bit bus space: D5 does not say what a window that runs past its top would be (log 20). -/
def Config.windowsFit (c : Config) : Bool :=
  c.unit0.base.toNat % 2 == 0 && c.unit1.base.toNat % 2 == 0
    && (c.unit0.base.toNat + 16 ≤ c.unit1.base.toNat || c.unit1.base.toNat + 16 ≤ c.unit0.base.toNat)
    && c.unit0.base.toNat + 16 ≤ 2 ^ 22 && c.unit1.base.toNat + 16 ≤ 2 ^ 22

/-- A configuration is well formed when its parameters meet the bounds of 92_eei_decisions.md (D5, D6, D7, D10, D12). Any
words are admitted as `TX_OK` and `TX_FAIL_SW1`, whatever their completion code, which is the model's choice (log 22). -/
def Config.wellFormed (c : Config) : Bool :=
  decide (1 ≤ c.readqCap) && decide (ethMax ≤ c.txbufMax) && decide (1 ≤ c.sysidPeriod)
    && decide (1 ≤ c.rxRingN) && decide (1 ≤ c.txRingN)
    && c.layout.wellFormed && c.setupBits.wellFormed && c.windowsFit

end Sys2Proof
end

