-- ==== Sys2Proof/Decode.lean ====
section
/-! DEFINITION. Operation records and their decoder and encoder. A record is the operation code in one byte (rule R76; its
two high bits 0), then the operand (rule R100): the instance byte, a write's data low byte first, a frame's bytes, a
completion's status byte and its tag's bytes, low byte first (log 1). -/

namespace Sys2Proof

/-- Why a record is no operation. -/
inductive DecodeError where
  /-- the record has no byte -/
  | empty
  /-- bits 7:6 of the code byte are not 0, so it holds no 6-bit operation code -/
  | badCode
  /-- the instance byte is missing or names neither instance -/
  | badInstance
  /-- the status byte is missing or is neither `ok` nor `fail` -/
  | badStatus
  /-- bytes are missing or left over -/
  | badLength
  deriving DecidableEq, Repr

/-- The result of decoding a record. -/
abbrev Decoded := Except DecodeError Instr

/-- The instance a byte names. -/
def instOf : Byte → Option Inst
  | 0x00 => some .i0
  | 0x01 => some .i1
  | _ => none

/-- The completion status a byte names (rule R77). -/
def statusOf : Byte → Option TxStatus
  | 0x00 => some .ok
  | 0x01 => some .fail
  | _ => none

/-- The number whose bytes these are, low byte first. -/
def natOfBytes : List Byte → Nat
  | [] => 0
  | b :: bs => b.toNat + 256 * natOfBytes bs

/-- An operation with no operand. -/
def decodeBare (i : Instr) : List Byte → Decoded
  | [] => .ok i
  | _ => .error .badLength

/-- An operation whose operand is an instance. -/
def decodeInst (mk : Inst → Instr) : List Byte → Decoded
  | [] => .error .badInstance
  | b :: rest =>
    match instOf b, rest with
    | none, _ => .error .badInstance
    | some i, [] => .ok (mk i)
    | some _, _ => .error .badLength

/-- A register write: an instance and a data word, low byte first (rules R57, R76). -/
def decodeWrite (mk : Inst → Word → Instr) : List Byte → Decoded
  | [] => .error .badInstance
  | b :: rest =>
    match instOf b, rest with
    | none, _ => .error .badInstance
    | some i, [lo, hi] => .ok (mk i (hi ++ lo))
    | some _, _ => .error .badLength

/-- A received frame: an instance and the frame's bytes (rule R77). -/
def decodeRxf : List Byte → Decoded
  | [] => .error .badInstance
  | b :: frame =>
    match instOf b with
    | none => .error .badInstance
    | some i => .ok (.rxf i frame)

/-- A transmit completion: an instance, a status and a tag (rule R77). -/
def decodeTxdone : List Byte → Decoded
  | [] => .error .badInstance
  | b :: rest =>
    match instOf b, rest with
    | none, _ => .error .badInstance
    | some _, [] => .error .badStatus
    | some i, st :: tag =>
      match statusOf st with
      | none => .error .badStatus
      | some status => .ok (.txdone i status (natOfBytes tag))

/-- The operation a code byte and the rest of its record stand for: the rows of spec/opcode_table.json (rules R76 to
R78). A code byte from 0x40 up holds no 6-bit code. -/
def decodeCode (code : Byte) (rest : List Byte) : Decoded :=
  match code with
  | 0x00 => decodeInst .lRdSa0 rest
  | 0x01 => decodeInst .lRdSa1 rest
  | 0x02 => decodeInst .lRdSa2 rest
  | 0x03 => decodeInst .lRdSa3 rest
  | 0x04 => decodeInst .lRdSa4 rest
  | 0x05 => decodeInst .lRdSa5 rest
  | 0x06 => decodeInst .lRdVar rest
  | 0x07 => decodeInst .lRdCsr rest
  | 0x08 => decodeWrite .lWrSa0 rest
  | 0x09 => decodeWrite .lWrSa1 rest
  | 0x0A => decodeWrite .lWrRbdlLo rest
  | 0x0B => decodeWrite .lWrRbdlHi rest
  | 0x0C => decodeWrite .lWrXbdlLo rest
  | 0x0D => decodeWrite .lWrXbdlHi rest
  | 0x0E => decodeWrite .lWrVar rest
  | 0x0F => decodeWrite .lWrCsr rest
  | 0x10 => decodeInst .cRdSa0 rest
  | 0x11 => decodeInst .cRdSa1 rest
  | 0x12 => decodeInst .cRdSa2 rest
  | 0x13 => decodeInst .cRdSa3 rest
  | 0x14 => decodeInst .cRdSa4 rest
  | 0x15 => decodeInst .cRdSa5 rest
  | 0x16 => decodeInst .cRdVar rest
  | 0x17 => decodeInst .cRdCsr rest
  | 0x18 => decodeWrite .cWrSa0 rest
  | 0x19 => decodeWrite .cWrSa1 rest
  | 0x1A => decodeWrite .cWrRbdlLo rest
  | 0x1B => decodeWrite .cWrRbdlHi rest
  | 0x1C => decodeWrite .cWrXbdlLo rest
  | 0x1D => decodeWrite .cWrXbdlHi rest
  | 0x1E => decodeWrite .cWrVar rest
  | 0x1F => decodeWrite .cWrCsr rest
  | 0x20 => decodeInst .tRdSa0 rest
  | 0x21 => decodeInst .tRdSa1 rest
  | 0x22 => decodeInst .tRdSa2 rest
  | 0x23 => decodeInst .tRdSa3 rest
  | 0x24 => decodeInst .tRdSa4 rest
  | 0x25 => decodeInst .tRdSa5 rest
  | 0x26 => decodeInst .tRdSrr rest
  | 0x27 => decodeInst .tRdRsv rest
  | 0x28 => decodeWrite .tWrIgn0 rest
  | 0x29 => decodeWrite .tWrIgn1 rest
  | 0x2A => decodeWrite .tWrIbaLo rest
  | 0x2B => decodeWrite .tWrIbaHi rest
  | 0x2C => decodeWrite .tWrIcr rest
  | 0x2D => decodeWrite .tWrIgn5 rest
  | 0x2E => decodeWrite .tWrSrqr rest
  | 0x2F => decodeWrite .tWrArqr rest
  | 0x30 => decodeBare .ack rest
  | 0x31 => decodeInst .tick rest
  | 0x32 => decodeRxf rest
  | 0x33 => decodeTxdone rest
  | 0x34 => decodeInst .stdone rest
  | 0x35 => decodeBare .busreset rest
  | 0x36 => decodeBare .poweron rest
  | 0x37 => decodeBare .reserved37 rest
  | 0x38 => decodeBare (.reserved38to3F 0x38) rest
  | 0x39 => decodeBare (.reserved38to3F 0x39) rest
  | 0x3A => decodeBare (.reserved38to3F 0x3A) rest
  | 0x3B => decodeBare (.reserved38to3F 0x3B) rest
  | 0x3C => decodeBare (.reserved38to3F 0x3C) rest
  | 0x3D => decodeBare (.reserved38to3F 0x3D) rest
  | 0x3E => decodeBare (.reserved38to3F 0x3E) rest
  | 0x3F => decodeBare (.reserved38to3F 0x3F) rest
  | _ => .error .badCode

/-- The operation a record stands for. -/
def decode : List Byte → Decoded
  | [] => .error .empty
  | code :: rest => decodeCode code rest

/-! ### The encoder -/

/-- The byte that names an instance. -/
def instByte : Inst → Byte
  | .i0 => 0x00
  | .i1 => 0x01

/-- The byte that names a completion status. -/
def statusByte : TxStatus → Byte
  | .ok => 0x00
  | .fail => 0x01

/-- The bytes of a number, low byte first and none for 0; `fuel` at least the number suffices. -/
def natBytes : Nat → Nat → List Byte
  | 0, _ => []
  | _ + 1, 0 => []
  | fuel + 1, n + 1 => BitVec.ofNat 8 (n + 1) :: natBytes fuel ((n + 1) / 256)

/-- The record of a register write. -/
def writeRecord (code : Byte) (i : Inst) (d : Word) : List Byte :=
  [code, instByte i, d.setWidth 8, (d >>> 8).setWidth 8]

/-- The record of an operation. -/
def encode : Instr → List Byte
  | .lRdSa0 i => [0x00, instByte i]
  | .lRdSa1 i => [0x01, instByte i]
  | .lRdSa2 i => [0x02, instByte i]
  | .lRdSa3 i => [0x03, instByte i]
  | .lRdSa4 i => [0x04, instByte i]
  | .lRdSa5 i => [0x05, instByte i]
  | .lRdVar i => [0x06, instByte i]
  | .lRdCsr i => [0x07, instByte i]
  | .lWrSa0 i d => writeRecord 0x08 i d
  | .lWrSa1 i d => writeRecord 0x09 i d
  | .lWrRbdlLo i d => writeRecord 0x0A i d
  | .lWrRbdlHi i d => writeRecord 0x0B i d
  | .lWrXbdlLo i d => writeRecord 0x0C i d
  | .lWrXbdlHi i d => writeRecord 0x0D i d
  | .lWrVar i d => writeRecord 0x0E i d
  | .lWrCsr i d => writeRecord 0x0F i d
  | .cRdSa0 i => [0x10, instByte i]
  | .cRdSa1 i => [0x11, instByte i]
  | .cRdSa2 i => [0x12, instByte i]
  | .cRdSa3 i => [0x13, instByte i]
  | .cRdSa4 i => [0x14, instByte i]
  | .cRdSa5 i => [0x15, instByte i]
  | .cRdVar i => [0x16, instByte i]
  | .cRdCsr i => [0x17, instByte i]
  | .cWrSa0 i d => writeRecord 0x18 i d
  | .cWrSa1 i d => writeRecord 0x19 i d
  | .cWrRbdlLo i d => writeRecord 0x1A i d
  | .cWrRbdlHi i d => writeRecord 0x1B i d
  | .cWrXbdlLo i d => writeRecord 0x1C i d
  | .cWrXbdlHi i d => writeRecord 0x1D i d
  | .cWrVar i d => writeRecord 0x1E i d
  | .cWrCsr i d => writeRecord 0x1F i d
  | .tRdSa0 i => [0x20, instByte i]
  | .tRdSa1 i => [0x21, instByte i]
  | .tRdSa2 i => [0x22, instByte i]
  | .tRdSa3 i => [0x23, instByte i]
  | .tRdSa4 i => [0x24, instByte i]
  | .tRdSa5 i => [0x25, instByte i]
  | .tRdSrr i => [0x26, instByte i]
  | .tRdRsv i => [0x27, instByte i]
  | .tWrIgn0 i d => writeRecord 0x28 i d
  | .tWrIgn1 i d => writeRecord 0x29 i d
  | .tWrIbaLo i d => writeRecord 0x2A i d
  | .tWrIbaHi i d => writeRecord 0x2B i d
  | .tWrIcr i d => writeRecord 0x2C i d
  | .tWrIgn5 i d => writeRecord 0x2D i d
  | .tWrSrqr i d => writeRecord 0x2E i d
  | .tWrArqr i d => writeRecord 0x2F i d
  | .ack => [0x30]
  | .tick i => [0x31, instByte i]
  | .rxf i frame => 0x32 :: instByte i :: frame
  | .txdone i status tag => 0x33 :: instByte i :: statusByte status :: natBytes tag tag
  | .stdone i => [0x34, instByte i]
  | .busreset => [0x35]
  | .poweron => [0x36]
  | .reserved37 => [0x37]
  | .reserved38to3F code => [code.setWidth 8]

/-! ### The opcode table's words -/

/-- The `n` low bytes of a number, low byte first: the bytes of a table word, bit 0 in the first byte. -/
def tableBytes : Nat → Nat → List Byte
  | 0, _ => []
  | n + 1, w => BitVec.ofNat 8 w :: tableBytes n (w / 256)

/-- The fewest bytes a record with this code byte has. -/
def recordBytes (code : Byte) : Nat :=
  if code < 0x30 then (if code.getLsbD 3 then 4 else 2)
  else if code = 0x33 then 3
  else if code = 0x31 ∨ code = 0x32 ∨ code = 0x34 then 2
  else 1

/-- A record with operand bytes of 0 added up to the fewest it has. -/
def padRecord : List Byte → List Byte
  | [] => []
  | b :: rest => b :: rest ++ List.replicate (recordBytes b - 1 - rest.length) 0

/-- The record of a table word of `nbits` bits, every bit above them 0. -/
def tableRecord (nbits w : Nat) : List Byte :=
  padRecord (tableBytes ((nbits + 7) / 8) w)

/-- The operation the decoder reads from a table word. -/
def decodeTableWord (nbits w : Nat) : Option Instr :=
  (decode (tableRecord nbits w)).toOption

end Sys2Proof
end

