-- ==== Sys2Proof/Machine/State.lean ====
section
/-! DEFINITION. The state of the block as plain data (10_state.md), the reasons a step stops, and the state after power-on. -/

namespace Sys2Proof.Machine

/-- A transmit handed to the transport: the address of the end-of-message descriptor or slot whose status the
completion writes, and the reset generation at hand-off (`pending(addr, gen)`, rule R39). -/
structure TxPend where
  addr : Addr
  gen : Nat
  deriving DecidableEq, Repr

/-- What put an item in the Read Queue (rule R48). -/
inductive ItemKind where
  | setupResponse
  | loopback
  | normal
  deriving DecidableEq, Repr

/-- A Read Queue item (rule R48). `offset` is the bytes already delivered. -/
structure Item where
  kind : ItemKind
  bytes : List Byte
  offset : Nat
  deriving DecidableEq, Repr

/-- The classic registers and walk pointers (rules R21, R33, R37, R38). `csr` holds the stored bits only. -/
structure Classic where
  csr : Word
  var : Word
  rbdlLo : Word
  xbdlLo : Word
  rptr : Addr
  xptr : Addr
  deriving DecidableEq, Repr

/-- The transmit state (rule R39). `txpend = none` is `idle`. -/
structure Transmit where
  txbuf : List Byte
  txpend : Option TxPend
  gen : Nat
  deriving DecidableEq, Repr

/-- SRR by its named fields (rule R41); the 16-bit word is formed on a read, since every other bit reads 0 (log 5). -/
structure Srr where
  fes : Bool
  nxm : Bool
  ta : Bool
  rsp : BitVec 2
  deriving DecidableEq, Repr

/-- The turbo registers and ring state (rules R41 to R44, R46). -/
structure Turbo where
  srr : Srr
  icrEn : Bool
  ibaLo : Word
  iba : Addr
  rxRingBase : Addr
  txRingBase : Addr
  rxIdx : Nat
  txIdx : Nat
  ringsStarted : Bool
  tlatch : Bool
  deriving DecidableEq, Repr

/-- The values taken from the init block (rule R45). -/
structure InitBlock where
  flags : Word
  phys : Mac
  hash : List Byte
  opts : Word
  vector : Word
  timeout : Word
  password : List Byte
  deriving DecidableEq, Repr

/-- Setup State (rule R47). -/
structure Setup where
  filters : List Mac
  allMulticast : Bool
  promiscuous : Bool
  led : BitVec 2
  sanitySel : BitVec 3
  deriving DecidableEq, Repr

/-- The Read Queue and its loss counter (rule R48). The head of the list is the oldest item. -/
structure ReadQueue where
  readq : List Item
  loss : Nat
  deriving DecidableEq, Repr

/-- The timer state (rule R50). -/
structure Timers where
  sanCount : Nat
  sanArmed : Bool
  sysidCount : Nat
  sysidReceipt : Word
  deriving DecidableEq, Repr

/-- The statistics counters (rule R52). -/
structure Stats where
  runt : Nat
  giant : Nat
  rx : Nat
  tx : Nat
  txfail : Nat
  setup : Nat
  dropped : Nat
  deriving DecidableEq, Repr

/-- The state of one controller instance. -/
structure Ctl where
  mode : Mode
  classic : Classic
  rxSubscribed : Bool
  tx : Transmit
  turbo : Turbo
  init : InitBlock
  setup : Setup
  queue : ReadQueue
  pending : Bool
  timers : Timers
  stats : Stats
  hung : Bool
  deriving DecidableEq, Repr

/-- An output event of an instance (rule R15 `Emit`): the transport calls of rule R8, the system-ID broadcast of rule
R186 and the guest-reboot signal of rule R210. -/
inductive OutEvent where
  | write (i : Inst) (frame : List Byte) (tag : Nat)
  | filter (i : Inst) (addresses : List Mac) (allMulticast promiscuous : Bool)
  | filterHash (i : Inst) (address : Mac) (promiscuous : Bool) (hash : List Byte)
  | sysid (i : Inst) (address : Mac) (receipt : Word)
  | reboot (i : Inst)
  deriving DecidableEq, Repr

/-- One guest-memory write or barrier the block issued (rules R66, R67, R72). -/
inductive MemEvent where
  | byte (a : Addr) (v : Byte)
  | word (a : Addr) (v : Word)
  | barrier
  deriving DecidableEq, Repr

/-- What an operation yields to the outside (rule R17): the data of a register read, or an acknowledge's vector or
`none`. -/
inductive Yield where
  | nothing
  | data (v : Word)
  | vector (v : Option Word)
  deriving DecidableEq, Repr

/-- A driver write that becomes visible to the block inside a step a transport event triggers (rule R69): its bytes land
before a guest-memory access of such a step, after `wait` accesses counted from the landing of the one before it
(log 16). -/
structure DriverWrite where
  wait : Nat
  addr : Addr
  bytes : List Byte
  deriving DecidableEq, Repr

/-- What the environment does next (rule R5). A bus access carries its address and whether it is a byte access (rule
R61); an event is its record (rule R77); the driver's own writes to guest memory are the MEM lines of rule R100, visible
at once or inside a later step (rule R69). -/
inductive Input where
  | busRead (addr : Addr) (byteAccess : Bool)
  | busWrite (addr : Addr) (data : Word) (byteAccess : Bool)
  | operation (record : List Byte)
  | driverWrite (addr : Addr) (bytes : List Byte)
  | driverConcurrent (w : DriverWrite)
  deriving DecidableEq, Repr

/-- The reasons of `Fault(reason)` (rule R191). -/
inductive FaultReason where
  | bdlRewriteWhileSending
  | startWhileSending
  | invariant
  deriving DecidableEq, Repr

/-- The reasons of `Refuse(reason)` (rule R192; 93_implementation_defined.md U3 to U5). -/
inductive RefuseReason where
  | byteAccess
  | oddAddress
  | reservedEvent
  deriving DecidableEq, Repr

/-- The whole block: two instances, the coordinator, the model marks of rule R53, guest memory, and the record of what
crossed the block's boundary. `cfg` is configuration, which no operation changes (rule R18). -/
structure State where
  i0 : Ctl
  i1 : Ctl
  count : Nat
  line : Bool
  fault : Option FaultReason
  refused : Bool
  refusals : List RefuseReason
  draws : Nat
  inputs : List Input
  yielded : Yield
  mem : List Host.Cell
  concurrent : List DriverWrite
  trace : List MemEvent
  events : List OutEvent
  cfg : Config
  deriving DecidableEq, Repr

/-- Why the machine stops with a fault. -/
inductive Fault where
  /-- Raised by `step` alone, in a state whose `fault` mark is set: the block has stopped and no further step has a
  meaning (rules R53, R191). Safe: nothing is claimed of what a stopped block does. -/
  | blockFaulted (r : FaultReason)
  /-- Raised by `step` alone, for an operation that needs instance `i`, which is inside a step that never ends (rule
  R9). Safe: the instance has no further step. That this stops a bus reset or a power-on whole, the other instance not
  reset, is the model's choice (log 24). -/
  | instanceHung (i : Inst)
  deriving DecidableEq, Repr

/-- Why the machine has no meaning for what it was handed. -/
inductive Refusal where
  /-- Raised by `exec` for an instruction that has no meaning yet. Safe. -/
  | notModelled (mnemonic : String)
  /-- Raised by `step`: the record at the head of the inputs is no operation (rules R76, R77). Safe. -/
  | undecodable (e : DecodeError)
  /-- Raised by a meaning of one class in an instance of another mode: the decoder never forms that class there (rules
  R76, R79). Safe. -/
  | wrongMode
  /-- Raised by RXF and STDONE where the event is not enabled: the environment never delivers it there (rules R114,
  R179). Safe. -/
  | eventNotEnabled
  deriving DecidableEq, Repr

/-- The state of one instance. -/
def State.ctl (s : State) : Inst → Ctl
  | .i0 => s.i0
  | .i1 => s.i1

/-- The state with one instance's state replaced. -/
def State.setCtl (s : State) (i : Inst) (c : Ctl) : State :=
  match i with
  | .i0 => { s with i0 := c }
  | .i1 => { s with i1 := c }

/-- The configuration of an instance. -/
abbrev State.unit (s : State) (i : Inst) : UnitConfig := s.cfg.unit i

/-- An instance right after power-on: the table of 10_state.md section 17, with `gen` = 1 (rules R217, R220). -/
def Ctl.powerOn (cfg : Config) (u : UnitConfig) : Ctl :=
  { mode := if u.type = .legacy then .legacy else .compatible
    classic :=
      { csr := 0x0030
        var := (if u.type = .legacy then 0x0000 else 0x8000) ||| (if u.optionSwitch then 0x4000 else 0x0000)
        rbdlLo := 0, xbdlLo := 0, rptr := 0, xptr := 0 }
    rxSubscribed := false
    tx := { txbuf := [], txpend := none, gen := 1 }
    turbo :=
      { srr := { fes := false, nxm := false, ta := false, rsp := 0 }, icrEn := false, ibaLo := 0, iba := 0
        rxRingBase := 0, txRingBase := 0, rxIdx := 0, txIdx := 0, ringsStarted := false, tlatch := false }
    init :=
      { flags := 0, phys := ⟨0, 0, 0, 0, 0, 0⟩, hash := List.replicate 8 0, opts := 0, vector := 0
        timeout := 0, password := List.replicate cfg.layout.passwordBytes 0 }
    setup := { filters := [], allMulticast := false, promiscuous := false, led := 0, sanitySel := 0 }
    queue := { readq := [], loss := 0 }
    pending := false
    timers := { sanCount := 0, sanArmed := false, sysidCount := cfg.sysidPeriod, sysidReceipt := 0 }
    stats := { runt := 0, giant := 0, rx := 0, tx := 0, txfail := 0, setup := 0, dropped := 0 }
    hung := false }

/-- The block right after POWERON under a configuration (rules R217, R220): its two filter events are in the history
(log 13). -/
def State.powerOn (cfg : Config) : State :=
  { i0 := Ctl.powerOn cfg cfg.unit0
    i1 := Ctl.powerOn cfg cfg.unit1
    count := 0
    line := false
    fault := none
    refused := false
    refusals := []
    draws := 0
    inputs := []
    yielded := .nothing
    mem := []
    concurrent := []
    trace := []
    events := [.filter .i0 [] false false, .filter .i1 [] false false]
    cfg := cfg }

/-- The machine right after reset: POWERON under the test configuration (log 3, log 13). -/
def State.reset : State := State.powerOn Config.test

end Sys2Proof.Machine
end

