-- ==== Sys2Proof/Machine/Update.lean ====
section
/-! DEFINITION. The named updates of the state's fields. What each changes and leaves is in Sys2Proof/Laws/State.lean. -/

namespace Sys2Proof.Machine

def Ctl.setMode (c : Ctl) (v : Mode) : Ctl := { c with mode := v }
def Ctl.setCsr (c : Ctl) (v : Word) : Ctl := { c with classic.csr := v }
def Ctl.setVar (c : Ctl) (v : Word) : Ctl := { c with classic.var := v }
def Ctl.setRbdlLo (c : Ctl) (v : Word) : Ctl := { c with classic.rbdlLo := v }
def Ctl.setXbdlLo (c : Ctl) (v : Word) : Ctl := { c with classic.xbdlLo := v }
def Ctl.setRptr (c : Ctl) (v : Addr) : Ctl := { c with classic.rptr := v }
def Ctl.setXptr (c : Ctl) (v : Addr) : Ctl := { c with classic.xptr := v }
def Ctl.setRxSubscribed (c : Ctl) (v : Bool) : Ctl := { c with rxSubscribed := v }
def Ctl.setTxbuf (c : Ctl) (v : List Byte) : Ctl := { c with tx.txbuf := v }
def Ctl.setTxpend (c : Ctl) (v : Option TxPend) : Ctl := { c with tx.txpend := v }
def Ctl.setTx (c : Ctl) (v : Transmit) : Ctl := { c with tx := v }
def Ctl.setSrr (c : Ctl) (v : Srr) : Ctl := { c with turbo.srr := v }
def Ctl.setIcrEn (c : Ctl) (v : Bool) : Ctl := { c with turbo.icrEn := v }
def Ctl.setIbaLo (c : Ctl) (v : Word) : Ctl := { c with turbo.ibaLo := v }
def Ctl.setIba (c : Ctl) (v : Addr) : Ctl := { c with turbo.iba := v }
def Ctl.setRingBases (c : Ctl) (rx tx : Addr) : Ctl := { c with turbo.rxRingBase := rx, turbo.txRingBase := tx }
def Ctl.setRxIdx (c : Ctl) (v : Nat) : Ctl := { c with turbo.rxIdx := v }
def Ctl.setTxIdx (c : Ctl) (v : Nat) : Ctl := { c with turbo.txIdx := v }
def Ctl.setRingsStarted (c : Ctl) (v : Bool) : Ctl := { c with turbo.ringsStarted := v }
def Ctl.setTlatch (c : Ctl) (v : Bool) : Ctl := { c with turbo.tlatch := v }
def Ctl.setTurbo (c : Ctl) (v : Turbo) : Ctl := { c with turbo := v }
def Ctl.setInit (c : Ctl) (v : InitBlock) : Ctl := { c with init := v }
def Ctl.setSetup (c : Ctl) (v : Setup) : Ctl := { c with setup := v }
def Ctl.setQueue (c : Ctl) (v : ReadQueue) : Ctl := { c with queue := v }
def Ctl.setPending (c : Ctl) (v : Bool) : Ctl := { c with pending := v }
def Ctl.setTimers (c : Ctl) (v : Timers) : Ctl := { c with timers := v }
def Ctl.setStats (c : Ctl) (v : Stats) : Ctl := { c with stats := v }
def Ctl.setHung (c : Ctl) (v : Bool) : Ctl := { c with hung := v }

def State.setCoord (s : State) (count : Nat) (line : Bool) : State := { s with count := count, line := line }
def State.setFault (s : State) (r : FaultReason) : State := { s with fault := some r }
def State.addRefusal (s : State) (r : RefuseReason) : State := { s with refused := true, refusals := s.refusals ++ [r] }
def State.nextDraw (s : State) : State := { s with draws := s.draws + 1 }
def State.setInputs (s : State) (v : List Input) : State := { s with inputs := v }
def State.setYield (s : State) (v : Yield) : State := { s with yielded := v }
def State.setMem (s : State) (v : List Host.Cell) : State := { s with mem := v }
def State.setConcurrent (s : State) (v : List DriverWrite) : State := { s with concurrent := v }
def State.addTrace (s : State) (e : MemEvent) : State := { s with trace := s.trace ++ [e] }
def State.addEvent (s : State) (e : OutEvent) : State := { s with events := s.events ++ [e] }

end Sys2Proof.Machine
end

