-- ==== Sys2Proof/Machine/Flags.lean ====
section
/-! DEFINITION. The status bits: CSR and VAR bits and masks (rules R21, R33, R82, R112), the interrupt edge (rule R197), the
SRR word (rules R41, R94) and the status words of descriptors and slots (rules R88 to R90, R95). -/

namespace Sys2Proof.Machine

/-! ### CSR bit positions (rule R21) -/

abbrev Csr.RI : Nat := 15
abbrev Csr.SE : Nat := 10
abbrev Csr.EL : Nat := 9
abbrev Csr.IL : Nat := 8
abbrev Csr.XI : Nat := 7
abbrev Csr.IE : Nat := 6
abbrev Csr.RL : Nat := 5
abbrev Csr.XL : Nat := 4
abbrev Csr.NI : Nat := 2
abbrev Csr.SR : Nat := 1
abbrev Csr.RE : Nat := 0

/-! ### CSR masks (rules R21, R82) -/

/-- The bits a write sets and clears: SE, EL, IL, IE, BD, SR, RE. -/
abbrev Csr.rwMask : Word := 0x074B
/-- The bits a written 1 clears: RI, XI. -/
abbrev Csr.w1cMask : Word := 0x8080
/-- The bits PE, CA, OK and RR, which are not stored. -/
abbrev Csr.computedMask : Word := 0x7800
abbrev Csr.riMask : Word := 0x8000
abbrev Csr.xiMask : Word := 0x0080
abbrev Csr.rlMask : Word := 0x0020
abbrev Csr.xlMask : Word := 0x0010
abbrev Csr.niMask : Word := 0x0004
/-- What NXM sets: NI, XI, XL, RL (rule R188). -/
abbrev Csr.nxmMask : Word := 0x00B4

/-- The set mask of a CSR write (rule R82). -/
def csrSetMask (d : Word) : Word := d &&& Csr.rwMask

/-- The clear mask of a CSR write: RW bits written 0, RI and XI written 1, and NI with XI (rule R82). -/
def csrClrMask (d : Word) : Word :=
  (~~~d &&& Csr.rwMask) ||| (d &&& Csr.w1cMask) ||| (if d.getLsbD Csr.XI then Csr.niMask else 0)

/-- The stored CSR after setting and clearing bits (rule R102). -/
def csrAfter (csr set clr : Word) : Word := (csr ||| set) &&& ~~~clr

/-- The interrupt edge of a CSR change: a completion bit going to 1 while enabled, or enabling with one already 1
(rule R197). -/
def intEdge (old new : Word) : Bool :=
  new.getLsbD Csr.IE
    && ((!old.getLsbD Csr.XI && new.getLsbD Csr.XI)
      || (!old.getLsbD Csr.RI && new.getLsbD Csr.RI)
      || (!old.getLsbD Csr.IE && (new.getLsbD Csr.XI || new.getLsbD Csr.RI)))

/-- A CSR change withdraws the request: disabled, or both completion bits clear (rule R197). -/
def intWithdraw (new : Word) : Bool :=
  !new.getLsbD Csr.IE || (!new.getLsbD Csr.XI && !new.getLsbD Csr.RI)

/-- The word a CSR read yields: PE 0, CA drawn, OK the attachment, RR 0, the rest as stored (rule R106). -/
def csrRead (csr : Word) (carrier attached : Bool) : Word :=
  (csr &&& ~~~Csr.computedMask) ||| bitWord 13 carrier ||| bitWord 12 attached

/-- A transmitted frame is looped back (rules R29, R154). -/
def loopsBack (csr : Word) : Bool :=
  !csr.getLsbD Csr.RE && (!csr.getLsbD Csr.IL || csr.getLsbD Csr.EL)

/-! ### VAR (rules R33 to R35, R112) -/

abbrev Var.MS : Nat := 15
abbrev Var.OS : Nat := 14
abbrev Var.RS : Nat := 13

/-- The writable bits of VAR: IV only for type legacy, MS, RS, IV and ID otherwise (rule R112). -/
def varMask : DeviceType → Word
  | .legacy => 0x03FC
  | _ => 0xA3FD

/-- VAR after a write: the writable bits take the data, and an active self-test stays active (rule R112). -/
def varAfter (type : DeviceType) (var d : Word) : Word :=
  ((var &&& ~~~varMask type) ||| (d &&& varMask type)) ||| (var &&& 0x2000)

/-- VAR at reset: MS for a type other than legacy, OS the option switch (rules R33, R217). -/
def varReset (u : UnitConfig) : Word :=
  (if u.type = .legacy then 0x0000 else 0x8000) ||| (if u.optionSwitch then 0x4000 else 0x0000)

/-- VAR after the self-test ends: RS 0, ST the result code (rule R114). -/
def varTested (var : Word) (result : BitVec 3) : Word :=
  (var &&& 0xC3FF) ||| (result.setWidth 16 <<< 10)

/-- The vector bits of VAR or of the init block's vector word (rules R35, R136). -/
def vectorOf (w : Word) : Word := w &&& 0x03FC

/-! ### SRR (rules R41, R94) -/

/-- The 16-bit response register of its fields; every other bit reads 0. -/
def srrWord (l : TurboLayout) (r : Srr) : Word :=
  bitWord l.srrFes r.fes ||| bitWord l.srrNxm r.nxm ||| bitWord l.srrTa r.ta ||| fieldWord l.srrRsp 2 r.rsp.toNat

/-! ### Classic status words (rules R88 to R90) -/

/-- Status word 1 of a receive segment (rule R89). -/
def rxSw1 (q : Item) (last ovf : Bool) : Word :=
  (if last then 0x0000 else 0xC000) ||| (if q.kind = .setupResponse then 0x2000 else 0x0000)
    ||| fieldWord 8 3 ((q.bytes.length - ethMin) / 256) ||| (if ovf then 0x0001 else 0x0000)

/-- Status word 2 of a receive segment: RBL[7:0] twice (rule R89). -/
def rxSw2 (q : Item) : Word :=
  let rbl := BitVec.ofNat 8 (q.bytes.length - ethMin)
  wordOf rbl rbl

/-- The nonzero timing value of a failed transmit: bits 15:14 zero, bits 13:0 any value but 0 (rules R90, R155). The draw
is free; a drawn 0 stands for 1, so that every admitted value, and no other, is possible (log 8). -/
def timingWord (draw : BitVec 14) : Word :=
  (if draw = 0 then 1 else draw).setWidth 16

/-- The two status words of a transmit segment that is not the end of its message (rule R90). -/
abbrev txMoreSw1 : Word := 0xC000
abbrev txMoreSw2 : Word := 0x0000

/-! ### Turbo slot words (rules R95, R167, R170, R171) -/

/-- The length word of a completed receive slot. -/
def slotLenWord (l : TurboLayout) (len : Nat) (stp enp : Bool) : Word :=
  fieldWord l.lenLo l.lenBits len ||| bitWord l.stp stp ||| bitWord l.enp enp

/-- The status word of a completed receive slot. -/
def slotRxStatus (l : TurboLayout) (seg : Nat) (ovf : Bool) : Word :=
  fieldWord l.cntLo l.cntBits seg ||| bitWord l.ovf ovf

/-- The status word of a completed transmit slot. -/
def slotTxStatus (l : TurboLayout) (failed : Bool) : Word := bitWord l.err failed

/-- The ownership word of a returned slot: OWN 0, and EOR when the next slot is not the device's (rule R167). -/
def slotOwnerWord (l : TurboLayout) (nextOwned : Bool) : Word := bitWord l.eor (!nextOwned)

end Sys2Proof.Machine
end

