-- ==== Sys2Proof/Machine/Operands.lean ====
section
/-! DEFINITION. The operands the block reads from memory and frames: classic descriptors (rules R83 to R87), setup packets (rules
R91, R92), turbo slots (rules R95, R166). -/

namespace Sys2Proof.Machine

/-! ### Classic descriptors -/

/-- The six words of a classic descriptor (rule R83). Word 0 and the status words are never interpreted. -/
structure Desc where
  w0 : Word
  w1 : Word
  w2 : Word
  w3 : Word
  w4 : Word
  w5 : Word
  deriving DecidableEq, Repr

/-- V: the device owns the descriptor (rule R84). -/
def descValid (d : Desc) : Bool := d.w1.getLsbD 15
/-- C: the address field is the next descriptor's (rule R84). -/
def descChain (d : Desc) : Bool := d.w1.getLsbD 14
/-- E: end of message (rule R84). -/
def descEom (d : Desc) : Bool := d.w1.getLsbD 13
/-- S: setup packet (rule R84). -/
def descSetup (d : Desc) : Bool := d.w1.getLsbD 12
/-- L: low-byte termination (rule R84). -/
def descLow (d : Desc) : Bool := d.w1.getLsbD 7
/-- H: high-byte start (rule R84). -/
def descHigh (d : Desc) : Bool := d.w1.getLsbD 6

/-- The 22-bit address field `w1[5:0] : w2` (rule R85). -/
def descAddr (d : Desc) : Addr := addrOf d.w1 d.w2

/-- The buffer's first byte (rule R85). -/
def descStart (d : Desc) : Addr := descAddr d + (if descHigh d then 1 else 0)

/-- The buffer's length in bytes: the negated word count doubled, one byte less for each trim bit, never below 0
(rule R86). -/
def descLen (d : Desc) : Nat :=
  2 * (neg16 d.w3).toNat - (if descHigh d then 1 else 0) - (if descLow d then 1 else 0)

/-- The flag bits a driver chooses (rule R87). -/
structure DescFlags where
  valid : Bool
  chain : Bool
  eom : Bool
  setup : Bool
  deriving DecidableEq, Repr

/-- The word count a driver writes for `len` bytes from byte address `s` (rule R87). -/
def encodeWordCount (s : Addr) (len : Nat) : Nat :=
  let h := s.toNat % 2
  (len + h + (len + h) % 2) / 2

/-- The descriptor a driver builds for `len` bytes from byte address `s` (rule R87). The words the encoder does not set
are 0. -/
def encodeDesc (s : Addr) (len : Nat) (f : DescFlags) : Desc :=
  let h := s.getLsbD 0
  let l := decide ((len + s.toNat % 2) % 2 = 1)
  let a := s - (if h then 1 else 0)
  { w0 := 0
    w1 := bitWord 15 f.valid ||| bitWord 14 f.chain ||| bitWord 13 f.eom ||| bitWord 12 f.setup
            ||| bitWord 7 l ||| bitWord 6 h ||| (a >>> 16).setWidth 16
    w2 := a.setWidth 16
    w3 := neg16 (BitVec.ofNat 16 (encodeWordCount s len))
    w4 := 0
    w5 := 0 }

/-! ### Setup packets -/

/-- Where byte `b` of filter address `j` lies in a setup packet (rule R91). -/
def setupOff (j b : Nat) : Nat :=
  if j < 7 then 8 * b + (j + 1) else 64 + 8 * b + (j - 6)

/-- Filter address `j` of a setup packet. -/
def setupAddress (f : List Byte) (j : Nat) : Mac :=
  ⟨byteAt f (setupOff j 0), byteAt f (setupOff j 1), byteAt f (setupOff j 2), byteAt f (setupOff j 3),
    byteAt f (setupOff j 4), byteAt f (setupOff j 5)⟩

/-- Address `j` is taken from a setup packet of `n` bytes: all six bytes inside, and addresses 7 to 13 only from a
packet longer than `SETUP_BANK2` (rules R91, R125). -/
def setupTakes (n j : Nat) : Bool :=
  decide (setupOff j 5 < n) && (decide (j < 7) || decide (setupBank2 < n))

/-- The filter addresses of a setup packet, in increasing j, duplicates kept (rule R125). -/
def setupFilters (f : List Byte) : List Mac :=
  ((List.range 14).filter (setupTakes f.length)).map (setupAddress f)

/-- The trailing flags word of a long-form setup packet (rule R92). -/
def setupFlags (f : List Byte) : Word :=
  wordOf (byteAt f (f.length - 1)) (byteAt f (f.length - 2))

/-- Setup State after a setup packet (rules R125 to R127). -/
def setupAfter (b : SetupFlagBits) (old : Setup) (f : List Byte) : Setup :=
  if setupLong < f.length then
    { filters := setupFilters f
      allMulticast := (setupFlags f).getLsbD b.mc
      promiscuous := (setupFlags f).getLsbD b.pm
      led := BitVec.ofNat 2 (fieldOf (setupFlags f) b.led 2)
      sanitySel := BitVec.ofNat 3 (fieldOf (setupFlags f) b.san 3) }
  else { old with filters := setupFilters f, promiscuous := false }

/-- `Match(f)`: a looped-back frame is accepted (rule R132). -/
def setupMatches (u : Setup) (f : List Byte) : Bool :=
  u.promiscuous || decide (macOf f ∈ u.filters) || ((macOf f).b0.getLsbD 0 && u.allMulticast)

/-! ### Frames -/

/-- A frame as it is queued: padded with zeros to `ETH_MIN`, cut to `ETH_MAX` (rule R174). -/
def normalise (f : List Byte) : List Byte :=
  (f ++ List.replicate (ethMin - f.length) 0).take ethMax

/-- Bytes added to the transmit buffer, none kept beyond its capacity (rule R153). -/
def keepUpTo (cap : Nat) (buf more : List Byte) : List Byte :=
  buf ++ more.take (cap - buf.length)

/-! ### Turbo slots -/

/-- The address of slot `k` of a ring (rule R166). -/
def slotAddr (l : TurboLayout) (base : Addr) (k : Nat) : Addr :=
  base + BitVec.ofNat 22 (l.slotBytes * k)

/-- The address of the word at a byte offset of a slot or of the init block. -/
def offsetAddr (p : Addr) (offset : Nat) : Addr := p + BitVec.ofNat 22 offset

/-- A 22-bit address split over two words, its bits 21:16 in the high word from bit `pos` (rules R95, R96). -/
def splitAddr (pos : Nat) (hi lo : Word) : Addr := addrOf (hi >>> pos) lo

/-- OWN: the device owns the slot (rule R95). -/
def slotOwned (l : TurboLayout) (owner : Word) : Bool := owner.getLsbD l.own

/-- LEN: the slot's buffer length (rule R95). -/
def slotLen (l : TurboLayout) (lf : Word) : Nat := fieldOf lf l.lenLo l.lenBits

end Sys2Proof.Machine
end

