-- ==== Sys2Proof/Machine/Ops.lean ====
section
/-! DEFINITION. The shared operations: an operation's shape, guest memory, draws, output, the interrupt coordinator, device-side
CSR changes, the model marks, taking an error (NXM, NXM_T) and the full reset. -/

namespace Sys2Proof.Machine

/-! ### The shape of an operation -/

/-- Which guest-memory access failed: the `ctx` of rules R188 and R189, the model's record only. -/
inductive NxmCtx where
  | fetch
  | rxData
  | rxStatus
  | txData
  | txStatus
  | chainCap
  | initBlock
  | ring
  deriving DecidableEq, Repr

/-- Why a step ended before the end of its pseudocode (rules R15, R16). The state it ended in is the step's result. -/
inductive Stop where
  | nxm (ctx : NxmCtx)
  | refused (r : RefuseReason)
  | faulted (r : FaultReason)
  | suspended
  | hung
  deriving DecidableEq, Repr

/-- A piece of a step: it answers a value and goes on, or ends the step. Both keep the state reached. -/
abbrev Op := EStateM Stop State

/-- The state a piece of a step leaves, whether it went on or ended the step. -/
def endState {α : Type} (m : Op α) (s : State) : State :=
  match m s with
  | .ok _ t => t
  | .error _ t => t

/-- An operation's outcome: the state its step leaves. -/
def runOp (m : Op Unit) (s : State) : Host.Outcome State Fault Refusal := .next (endState m s)

/-- End the step here. -/
def stopWith {α : Type} (r : Stop) : Op α := fun s => .error r s

/-- Read a part of the state. -/
def ask {α : Type} (f : State → α) : Op α := fun s => .ok (f s) s

/-- Change the state. -/
def change (f : State → State) : Op Unit := fun s => .ok () (f s)

/-- The state of an instance. -/
def getCtl (i : Inst) : Op Ctl := ask fun s => s.ctl i

/-- The configuration. -/
def getCfg : Op Config := ask fun s => s.cfg

/-- Change the state of an instance. -/
def onCtl (i : Inst) (f : Ctl → Ctl) (s : State) : State := s.setCtl i (f (s.ctl i))

/-- Change the state of an instance, as a piece of a step. -/
def changeCtl (i : Inst) (f : Ctl → Ctl) : Op Unit := change (onCtl i f)

/-! ### Guest memory -/

/-- One byte of guest memory. An unlisted address reads 0 (log 6). -/
def Memory.get : List Host.Cell → Nat → Byte
  | [], _ => 0
  | (k, v) :: rest, a => if k = a then v else Memory.get rest a

/-- Guest memory with one byte replaced, in canonical form. -/
def Memory.put : List Host.Cell → Nat → Byte → List Host.Cell
  | [], a, b => if b = 0 then [] else [(a, b)]
  | (k, v) :: rest, a, b =>
    if a < k then (if b = 0 then (k, v) :: rest else (a, b) :: (k, v) :: rest)
    else if a = k then (if b = 0 then rest else (a, b) :: rest)
    else (k, v) :: Memory.put rest a b

/-- The canonical form: addresses strictly rising, no cell equal to what an unlisted address reads as. -/
def Memory.wf (m : List Host.Cell) : Bool :=
  decide (m.Pairwise fun x y => x.1 < y.1) && m.all fun c => c.2 != 0

/-- Where a region keeps the byte of a bus address. -/
def regionAt (r : Region) (a : Addr) : Option Nat :=
  if r.base ≤ a.toNat ∧ a.toNat < r.base + r.size then some (r.target + (a.toNat - r.base)) else none

/-- Where `GMEM` keeps the byte of a bus address, in the guest's physical memory: the first region that backs it (rules
R55, R65; log 7). -/
def locate (cfg : Config) (a : Addr) : Option Nat := cfg.gmem.findSome? fun r => regionAt r a

/-- An address `GMEM` backs (rule R55). -/
def backed (cfg : Config) (a : Addr) : Bool := (locate cfg a).isSome

/-- A physical address that some region reaches. -/
def mapped (cfg : Config) (k : Nat) : Bool :=
  cfg.gmem.any fun r => decide (r.target ≤ k) && decide (k < r.target + r.size)

/-- The byte at a bus address. -/
def State.byteAt (s : State) (a : Addr) : Byte :=
  match locate s.cfg a with
  | some k => Memory.get s.mem k
  | none => 0

/-- The little-endian word at an address (rule R57). -/
def State.wordAt (s : State) (a : Addr) : Word := wordOf (s.byteAt (a + 1)) (s.byteAt a)

/-- Replace the byte at a bus address; one that is not backed keeps nothing. -/
def State.putByte (s : State) (a : Addr) (b : Byte) : State :=
  match locate s.cfg a with
  | some k => s.setMem (Memory.put s.mem k b)
  | none => s

/-- Replace the little-endian word at an address (rule R57). -/
def State.putWord (s : State) (a : Addr) (v : Word) : State :=
  (s.putByte a (lowByte v)).putByte (a + 1) (highByte v)

/-- `Refuse(reason)`: set the mark (rules R15, R53, R192, log 11). -/
def refuseState (r : RefuseReason) (s : State) : State := s.addRefusal r

/-- Refuse and end the step: it has no further effect (rule R59). -/
def refuse {α : Type} (r : RefuseReason) : Op α := fun s => .error (.refused r) (refuseState r s)

/-- `Fault(reason)`: set the mark and end the step (rules R15, R53, R191, log 10). -/
def faultStop {α : Type} (r : FaultReason) : Op α := fun s => .error (.faulted r) (s.setFault r)

/-- `Hang`: the instance is inside a step that never ends (rules R9, R53, log 12). -/
def hang {α : Type} (i : Inst) : Op α := fun s => .error .hung (onCtl i (·.setHung true) s)

/-- The driver's write of a run of bytes to guest memory (rules R55, R100; log 17). -/
def driverState : Addr → List Byte → State → State
  | _, [], s => s
  | a, b :: rest, s => driverState (a + 1) rest (s.putByte a b)

/-- Land the driver's writes that are due, and count one access for the first that is not (rule R69, log 16). -/
def landDue : List DriverWrite → State → State
  | [], s => s.setConcurrent []
  | w :: rest, s =>
    if w.wait = 0 then landDue rest (driverState w.addr w.bytes s)
    else s.setConcurrent ({ w with wait := w.wait - 1 } :: rest)

/-- What a guest-memory access finds: the state with the driver's writes landed that are due before it (rule R69). -/
def observe (s : State) : State := landDue s.concurrent s

/-- Land every write of a list, in its order. -/
def landList : List DriverWrite → State → State
  | [], s => s.setConcurrent []
  | w :: rest, s => landList rest (driverState w.addr w.bytes s)

/-- Every write of the driver has landed: the state a register-window write finds (rule R69). -/
def landAll (s : State) : State := landList s.concurrent s

/-- Both bytes of a word are backed. -/
def wordBacked (cfg : Config) (a : Addr) : Bool := backed cfg a && backed cfg (a + 1)

/-- `Barrier()` (rule R72). -/
def barrier : Op Unit := change fun s => s.addTrace .barrier

/-! ### Draws and output -/

/-- Take a drawn value (rule R15 `Draw`, log 8). -/
def draw {α : Type} (free : Nat → α) : Op α := fun s => .ok (free s.draws) s.nextDraw

/-- `Emit(e)` (rule R15). -/
def emit (e : OutEvent) : Op Unit := change fun s => s.addEvent e

/-- Put the data of a register read on the bus (rule R17). -/
def yieldData (v : Word) : Op Unit := change fun s => s.setYield (.data v)

/-! ### The interrupt coordinator -/

/-- `SetInt(i)` (rule R194). -/
def setInt (i : Inst) (s : State) : State :=
  if (s.ctl i).pending then s
  else (onCtl i (·.setPending true) s).setCoord (s.count + 1) (decide (0 < s.count + 1))

/-- `ClrInt(i, cause)` (rule R195); the cause has no effect (log 19). -/
def clrInt (i : Inst) (s : State) : State :=
  if (s.ctl i).pending then
    (onCtl i (·.setPending false) s).setCoord (s.count - 1) (decide (0 < s.count - 1))
  else s

/-- `IntClassic(old, new)` (rule R197). -/
def intClassic (i : Inst) (old new : Word) (s : State) : State :=
  if intEdge old new then setInt i s
  else if intWithdraw new then clrInt i s
  else s

/-- `IntTurbo()` (rule R198). -/
def intTurbo (i : Inst) (s : State) : State :=
  if (s.ctl i).turbo.icrEn && (s.ctl i).turbo.tlatch then setInt i s else clrInt i s

/-- Set `tlatch` and derive the request: what a completed batch, START or a turbo NXM does (rules R169, R198). -/
def latchTurbo (i : Inst) (s : State) : State := intTurbo i (onCtl i (·.setTlatch true) s)

/-- A change of the stored CSR with its interrupt (the first lines of `CsrSetClr`, rule R102). It is the whole of
`CsrSetClr` for a device-side change, which never touches SE, RE or SR (log 19). -/
def csrChange (i : Inst) (set clr : Word) (s : State) : State :=
  let old := (s.ctl i).classic.csr
  let new := csrAfter old set clr
  intClassic i old new (onCtl i (·.setCsr new) s)

/-- A device-side CSR change, as a piece of a step. -/
def csrDevice (i : Inst) (set clr : Word) : Op Unit := change (csrChange i set clr)

/-! ### Taking an error -/

/-- The effects of `NXM(ctx)` in a classic mode (rule R188). A receive walk can raise it while a message is with the
transport, which rule R188's note excludes and rule R158's "XL stays 0" does not foresee; the pseudocode of rule R188 is
followed there, which is the model's choice (log 23). -/
def nxmClassic (i : Inst) (s : State) : State := csrChange i Csr.nxmMask 0 (onCtl i (·.setTxbuf []) s)

/-- What `NXM_T` does to the instance's own registers (rule R189). -/
def nxmTurboCtl (c : Ctl) : Ctl :=
  (((c.setTxbuf []).setSrr { c.turbo.srr with fes := true, nxm := true }).setRingsStarted false).setRxSubscribed false

/-- The effects of `NXM_T(ctx)` in turbo mode (rule R189). -/
def nxmTurbo (i : Inst) (s : State) : State := latchTurbo i (onCtl i nxmTurboCtl s)

/-- START's response code 2, start failed (rules R94, R165). -/
def startFailed (c : Ctl) : Ctl := c.setSrr { c.turbo.srr with rsp := 2 }

/-- The state a failed guest-memory access leaves: NXM in a classic walk or at the walk bound, NXM_T in a ring walk or
the init block, whose failure is also START's response (rules R165, R187 to R189). -/
def nxmState (i : Inst) (ctx : NxmCtx) (s : State) : State :=
  match ctx with
  | .initBlock => nxmTurbo i (onCtl i startFailed s)
  | .ring => nxmTurbo i s
  | _ => nxmClassic i s

/-- `raise NXM(ctx)` and `raise NXM_T(ctx)`: take the error and end the step (rules R187 to R190). -/
def raise {α : Type} (i : Inst) (ctx : NxmCtx) : Op α := fun s => .error (.nxm ctx) (nxmState i ctx s)

/-! ### Guest-memory accesses of a walk (rules R14, R57 to R60, R62, R69, R145): the driver's writes that are due land first -/

/-- `MemRead(a, 1)`. -/
def readByte (i : Inst) (ctx : NxmCtx) (a : Addr) : Op Byte := fun s =>
  if backed s.cfg a then .ok ((observe s).byteAt a) (observe s) else raise i ctx (observe s)

/-- `MemRead(a, 2)`; refused at an odd address (rule R59). -/
def readWord (i : Inst) (ctx : NxmCtx) (a : Addr) : Op Word := fun s =>
  if a.getLsbD 0 then refuse .oddAddress s
  else if wordBacked s.cfg a then .ok ((observe s).wordAt a) (observe s)
  else raise i ctx (observe s)

/-- `MemWrite(a, 1, b)`. -/
def writeByte (i : Inst) (ctx : NxmCtx) (a : Addr) (b : Byte) : Op Unit := fun s =>
  if backed s.cfg a then .ok () (((observe s).putByte a b).addTrace (.byte a b)) else raise i ctx (observe s)

/-- `MemWrite(a, 2, v)`: both bytes or neither (rule R62); refused at an odd address (rule R59). -/
def writeWord (i : Inst) (ctx : NxmCtx) (a : Addr) (v : Word) : Op Unit := fun s =>
  if a.getLsbD 0 then refuse .oddAddress s
  else if wordBacked s.cfg a then .ok () (((observe s).putWord a v).addTrace (.word a v))
  else raise i ctx (observe s)

/-- Read bytes in increasing address order (rule R58). -/
def readBytes (i : Inst) (ctx : NxmCtx) : Nat → Addr → Op (List Byte)
  | 0, _ => pure []
  | n + 1, a => do
    let b ← readByte i ctx a
    let rest ← readBytes i ctx n (a + 1)
    pure (b :: rest)

/-- Write bytes in increasing address order (rule R58). -/
def writeBytes (i : Inst) (ctx : NxmCtx) : Addr → List Byte → Op Unit
  | _, [] => pure ()
  | a, b :: rest => do
    writeByte i ctx a b
    writeBytes i ctx (a + 1) rest

/-- A completion's two words: the second, a barrier, the first (rules R66, R72, R150). -/
def statusPair (i : Inst) (ctx : NxmCtx) (p : Addr) (sw1 sw2 : Word) : Op Unit := do
  writeWord i ctx (p + 10) sw2
  barrier
  writeWord i ctx (p + 8) sw1

/-! ### The full reset -/

/-- An instance after `ResetFull()`, but for its pending flag, which `ClrInt` clears (rule R217). -/
def resetCtl (cfg : Config) (i : Inst) (c : Ctl) : Ctl :=
  { mode := if (cfg.unit i).type = .legacy then .legacy else .compatible
    classic := { csr := 0x0030, var := varReset (cfg.unit i), rbdlLo := 0, xbdlLo := 0, rptr := 0, xptr := 0 }
    rxSubscribed := false
    tx := { txbuf := [], txpend := none, gen := c.tx.gen + 1 }
    turbo :=
      { srr := { fes := false, nxm := false, ta := false, rsp := 0 }, icrEn := false, ibaLo := 0, iba := 0
        rxRingBase := 0, txRingBase := 0, rxIdx := 0, txIdx := 0, ringsStarted := false, tlatch := false }
    init :=
      { flags := 0, phys := ⟨0, 0, 0, 0, 0, 0⟩, hash := List.replicate 8 0, opts := 0, vector := 0, timeout := 0
        password := List.replicate cfg.layout.passwordBytes 0 }
    setup := { filters := [], allMulticast := false, promiscuous := false, led := 0, sanitySel := 0 }
    queue := { readq := [], loss := 0 }
    pending := c.pending
    timers := { sanCount := 0, sanArmed := false, sysidCount := cfg.sysidPeriod, sysidReceipt := 0 }
    stats := c.stats
    hung := c.hung }

/-- `ResetFull()` (rule R217). -/
def resetState (i : Inst) (s : State) : State :=
  (clrInt i (onCtl i (resetCtl s.cfg i) s)).addEvent (.filter i [] false false)

/-- `ResetFull()`, as a piece of a step. -/
def resetFull (i : Inst) : Op Unit := change (resetState i)

end Sys2Proof.Machine
end

