-- ==== Sys2Proof/Machine/Walk.lean ====
section
/-! DEFINITION. How a walk runs: pass after pass, up to the bound `CHAIN_CAP`, or, with none, until it ends or never does (rules
R9, R144). -/

namespace Sys2Proof.Machine

/-- What one pass of a walk decides: another pass, or the walk's end. -/
inductive Pass (α : Type) where
  | again (a : α)
  | ended (a : α)

/-- Run a walk of at most `n` passes; the pass after them is not made and NXM(chain_cap) is raised (rule R144). -/
def cappedWalk {α : Type} (i : Inst) (pass : α → Op (Pass α)) : Nat → α → Op α
  | 0, _ => raise i .chainCap
  | n + 1, a => do
    match ← pass a with
    | .again b => cappedWalk i pass n b
    | .ended b => pure b

/-- An instance with the counters no walk reads left out, and a loss only as whether there is one: what decides how a
walk goes on. -/
def walkCtl (c : Ctl) : Ctl :=
  (c.setStats { runt := 0, giant := 0, rx := 0, tx := 0, txfail := 0, setup := 0, dropped := 0 }).setQueue
    { c.queue with loss := min c.queue.loss 1 }

/-- What decides how a walk goes on: the state without its histories and statistics. -/
def walkKey (s : State) : State :=
  { s with i0 := walkCtl s.i0, i1 := walkCtl s.i1, trace := [], events := [] }

/-- Two points of one walk from which it goes on alike. -/
def sameWalk (s t : State) : Bool := decide (walkKey s = walkKey t)

/-- How a run of passes went: the walk goes on, has ended, or stands where it stood before. -/
inductive Lap (α : Type) where
  | more (a : α)
  | ended (a : α)
  | repeated

/-- Run 2^n passes, or fewer when the walk ends or comes back to the point `mark`. -/
def lap {α : Type} (pass : α → Op (Pass α)) (mark : State) : Nat → α → Op (Lap α)
  | 0, a => do
    match ← pass a with
    | .ended b => pure (.ended b)
    | .again b => do
      let back ← ask fun s => sameWalk mark s
      pure (if back then .repeated else .more b)
  | n + 1, a => do
    match ← lap pass mark n a with
    | .more b => lap pass mark n b
    | .ended b => pure (.ended b)
    | .repeated => pure .repeated

/-- Run laps of 2^k, 2^(k+1), … passes, each marked where it starts; `none` when the walk never ends (log 12). -/
def laps {α : Type} (pass : α → Op (Pass α)) : Nat → Nat → α → Op (Option α)
  | 0, _, _ => pure none
  | n + 1, k, a => do
    let mark ← ask id
    match ← lap pass mark k a with
    | .more b => laps pass n (k + 1) b
    | .ended b => pure (some b)
    | .repeated => pure none

/-- Run a walk to its end; one that never ends is a hang (rules R9, R144). -/
def freeWalk {α : Type} (i : Inst) (pass : α → Op (Pass α)) (a : α) : Op α := do
  match ← laps pass hangLaps 0 a with
  | some b => pure b
  | none => hang i

/-- Run a classic walk under `CHAIN_CAP` (rule R144). -/
def classicWalk (i : Inst) (pass : Unit → Op (Pass Unit)) : Op Unit := do
  let cfg ← getCfg
  match cfg.chainCap with
  | some n => cappedWalk i pass n ()
  | none => freeWalk i pass ()

end Sys2Proof.Machine
end

