-- ==== Sys2Proof/Machine/Queue.lean ====
section
/-! DEFINITION. The Read Queue (rules R174 to R178). -/

namespace Sys2Proof.Machine

/-- The statistics after a frame is normalised: a runt or a giant counted (rule R174). -/
def normaliseStats (f : List Byte) (t : Stats) : Stats :=
  if f.length < ethMin then { t with runt := t.runt + 1 }
  else if ethMax < f.length then { t with giant := t.giant + 1 }
  else t

/-- The queue after an item is added; a full one first loses its oldest item (rule R174). -/
def queueAfter (cap : Nat) (q : ReadQueue) (item : Item) : ReadQueue :=
  if q.readq.length = cap then { readq := q.readq.drop 1 ++ [item], loss := q.loss + 1 }
  else { q with readq := q.readq ++ [item] }

/-- The statistics after an item is added to a queue (rule R174). -/
def insertStats (cap : Nat) (q : ReadQueue) (t : Stats) : Stats :=
  if q.readq.length = cap then { t with dropped := t.dropped + 1 } else t

/-- `RqInsert(type, f)` (rule R174). -/
def rqInsertCtl (cap : Nat) (kind : ItemKind) (f : List Byte) (c : Ctl) : Ctl :=
  (c.setQueue (queueAfter cap c.queue { kind := kind, bytes := normalise f, offset := 0 })).setStats
    (insertStats cap c.queue (normaliseStats f c.stats))

/-- `RqInsert(type, f)`, as a piece of a step. -/
def rqInsert (i : Inst) (kind : ItemKind) (f : List Byte) : Op Unit := do
  let cfg ← getCfg
  changeCtl i (rqInsertCtl cfg.readqCap kind f)

/-- The bytes the next segment of an item carries into a buffer of `len` bytes (rules R147, R148, R170). -/
def segment (q : Item) (len : Nat) : List Byte :=
  (q.bytes.drop q.offset).take (min len (q.bytes.length - q.offset))

/-- The segment that a buffer of `len` bytes takes holds the item's last byte (rules R89, R147, R170). -/
def segmentLast (q : Item) (len : Nat) : Bool :=
  decide (q.offset + (segment q len).length = q.bytes.length)

/-- An instance after the head item's next segment has gone into a buffer of `len` bytes: the offset moved on, a loss
reported, a finished item gone and counted (rules R147, R149, R170). -/
def deliverCtl (len : Nat) (c : Ctl) : Ctl :=
  match c.queue.readq with
  | [] => c
  | h :: rest =>
    if segmentLast h len then
      (c.setQueue { readq := rest, loss := 0 }).setStats { c.stats with rx := c.stats.rx + 1 }
    else
      c.setQueue { readq := { h with offset := h.offset + (segment h len).length } :: rest, loss := 0 }

end Sys2Proof.Machine
end

