-- ==== Sys2Proof/Machine/Timer.lean ====
section
/-! DEFINITION. The sanity timer and the system-ID broadcast (rules R186, R207 to R212). -/

namespace Sys2Proof.Machine

/-- `SanityArm()` (rule R208). -/
def sanityArmCtl (c : Ctl) : Ctl :=
  c.setTimers { c.timers with sanCount := sanityQ c.setup.sanitySel, sanArmed := true }

/-- Disarm the sanity timer. -/
def sanityDisarmCtl (c : Ctl) : Ctl := c.setTimers { c.timers with sanArmed := false }

/-- `SanityReload()` (rule R209). -/
def sanityReloadCtl (c : Ctl) : Ctl :=
  if c.mode = .turbo then
    if 0 < c.init.timeout.toNat then
      c.setTimers { c.timers with sanCount := 4 * c.init.timeout.toNat, sanArmed := true }
    else sanityDisarmCtl c
  else if c.classic.csr.getLsbD Csr.SE then sanityArmCtl c
  else c

/-- `SanityReload()`, as a piece of a step. -/
def sanityReload (i : Inst) : Op Unit := changeCtl i sanityReloadCtl

/-- `SanityExpire()` (rule R210). -/
def sanityExpire (i : Inst) : Op Unit := do
  let c ← getCtl i
  if c.mode = .turbo then resetFull i else emit (.reboot i)

/-- The sanity countdown one tick on; at 0 the timer is disarmed (rule R207). -/
def sanityCountCtl (c : Ctl) : Ctl :=
  c.setTimers
    { c.timers with
      sanCount := c.timers.sanCount - 1
      sanArmed := decide (c.timers.sanCount - 1 ≠ 0) }

/-- The sanity half of a tick (rule R207). -/
def sanityTick (i : Inst) : Op Unit := do
  let c ← getCtl i
  if c.timers.sanArmed then
    changeCtl i sanityCountCtl
    if c.timers.sanCount - 1 = 0 then sanityExpire i

/-- The system-ID countdown one tick on; at 0 it starts again (rule R186). -/
def sysidCountCtl (period : Nat) (c : Ctl) : Ctl :=
  c.setTimers
    { c.timers with
      sysidCount := if c.timers.sysidCount - 1 = 0 then period else c.timers.sysidCount - 1 }

/-- The receipt number one broadcast on (rule R186). -/
def sysidSentCtl (c : Ctl) : Ctl :=
  c.setTimers { c.timers with sysidReceipt := c.timers.sysidReceipt + 1 }

/-- `SysidTick()` (rule R186). -/
def sysidTick (i : Inst) : Op Unit := do
  let c ← getCtl i
  let cfg ← getCfg
  changeCtl i (sysidCountCtl cfg.sysidPeriod)
  if c.timers.sysidCount - 1 = 0 && (cfg.unit i).attached then
    emit (.sysid i (cfg.unit i).mac c.timers.sysidReceipt)
    changeCtl i sysidSentCtl

end Sys2Proof.Machine
end

