-- ==== Sys2Proof/Machine/Filter.lean ====
section
/-! DEFINITION. The setup/filter processor (41_setup_filter.md): classic setup packets and the turbo init block. -/

namespace Sys2Proof.Machine

/-- The state changes of `SetupProcess(f)` before its output (rules R125 to R127). -/
def setupCtl (b : SetupFlagBits) (f : List Byte) (c : Ctl) : Ctl :=
  (c.setSetup (setupAfter b c.setup f)).setStats { c.stats with setup := c.stats.setup + 1 }

/-- `SetupProcess(f)` (rule R125). -/
def setupProcess (i : Inst) (f : List Byte) : Op Unit := do
  let cfg ← getCfg
  changeCtl i (setupCtl cfg.setupBits f)
  let c ← getCtl i
  emit (.filter i c.setup.filters c.setup.allMulticast c.setup.promiscuous)
  sanityReload i

/-- What the init block holds (rule R96): the values of rule R45 and the two ring bases. -/
structure InitRead where
  block : InitBlock
  rxRing : Addr
  txRing : Addr
  deriving DecidableEq, Repr

/-- A ring base of the init block from its low word and its high word (rule R96). -/
def readRingBase (i : Inst) (pos : Nat) (lowAt highAt : Addr) : Op Addr := do
  let lo ← readWord i .initBlock lowAt
  let hi ← readWord i .initBlock highAt
  pure (splitAddr pos hi lo)

/-- Read the whole init block at `p`, in the order of its fields (rules R96, R133). A read that fails ends the step with
START's failure; nothing has been changed by then. -/
def readInitBlock (i : Inst) (l : TurboLayout) (p : Addr) : Op InitRead := do
  let flags ← readWord i .initBlock (offsetAddr p l.ibFlags)
  let phys ← readBytes i .initBlock 6 (offsetAddr p l.ibPhys)
  let hash ← readBytes i .initBlock 8 (offsetAddr p l.ibHash)
  let opts ← readWord i .initBlock (offsetAddr p l.ibOpts)
  let vector ← readWord i .initBlock (offsetAddr p l.ibVector)
  let timeout ← readWord i .initBlock (offsetAddr p l.ibTimeout)
  let password ← readBytes i .initBlock l.passwordBytes (offsetAddr p l.ibPassword)
  let rxRing ← readRingBase i l.rxRingHiLo (offsetAddr p l.ibRxRing) (offsetAddr p l.ibRxRingHi)
  let txRing ← readRingBase i l.txRingHiLo (offsetAddr p l.ibTxRing) (offsetAddr p l.ibTxRingHi)
  pure
    { block := { flags, phys := macOf phys, hash, opts, vector, timeout, password }
      rxRing
      txRing }

/-- An instance with the values of an init block stored (rules R133, R134). -/
def initCtl (l : TurboLayout) (r : InitRead) (c : Ctl) : Ctl :=
  ((c.setInit r.block).setRingBases r.rxRing r.txRing).setSetup
    { c.setup with
      filters := [r.block.phys]
      allMulticast := false
      promiscuous := r.block.flags.getLsbD l.prom }

/-- `InitBlockLoad()` (rules R133 to R135). -/
def initBlockLoad (i : Inst) : Op Unit := do
  let cfg ← getCfg
  let c ← getCtl i
  let r ← readInitBlock i cfg.layout c.turbo.iba
  changeCtl i (initCtl cfg.layout r)
  emit (.filterHash i r.block.phys (r.block.flags.getLsbD cfg.layout.prom) r.block.hash)

end Sys2Proof.Machine
end

