-- ==== Sys2Proof/Machine/ClassicWalk.lean ====
section
/-! DEFINITION. The classic descriptor processor (42_classic_descriptors.md). -/

namespace Sys2Proof.Machine

/-- `Fetch(p)` (rule R140). -/
def fetchDesc (i : Inst) (p : Addr) : Op Desc := do
  let cfg ← getCfg
  if cfg.writeFlagWord then writeWord i .fetch p 0xFFFF
  let w0 ← readWord i .fetch p
  let w1 ← readWord i .fetch (p + 2)
  let w2 ← readWord i .fetch (p + 4)
  let w3 ← readWord i .fetch (p + 6)
  let w4 ← readWord i .fetch (p + 8)
  let w5 ← readWord i .fetch (p + 10)
  pure { w0, w1, w2, w3, w4, w5 }

/-- Deliver the next segment of the head item `q` into the descriptor `d` at `p`, and move to the next descriptor (the
body of the loop of rule R147; rules R148 to R150). -/
def rxDeliver (i : Inst) (p : Addr) (d : Desc) (q : Item) (loss : Nat) : Op Unit := do
  writeBytes i .rxData (descStart d) (segment q (descLen d))
  statusPair i .rxStatus p (rxSw1 q (segmentLast q (descLen d)) (decide (0 < loss))) (rxSw2 q)
  changeCtl i (deliverCtl (descLen d))
  csrDevice i Csr.riMask 0
  changeCtl i (·.setRptr (p + descBytes))

/-- One pass of the receive walk: one fetch and what it leads to (rules R141, R142, R147). -/
def rxPass (i : Inst) (_ : Unit) : Op (Pass Unit) := do
  let c ← getCtl i
  let d ← fetchDesc i c.classic.rptr
  if !descValid d then
    csrDevice i Csr.rlMask 0
    pure (.ended ())
  else if descChain d then
    changeCtl i (·.setRptr (descAddr d))
    pure (.again ())
  else
    match c.queue.readq with
    | [] => pure (.ended ())
    | q :: _ =>
      rxDeliver i c.classic.rptr d q c.queue.loss
      pure (.again ())

/-- `RxDispatch()` (rule R147). -/
def rxDispatch (i : Inst) : Op Unit := do
  let c ← getCtl i
  if c.classic.csr.getLsbD Csr.RL then pure () else classicWalk i (rxPass i)

/-- The status pair of an end-of-message descriptor (rules R90, R155). The configured words need not carry the completion
codes 00 and 01 of rule R88, which is the model's choice (log 22). -/
def txStatus (status : TxStatus) : Op (Word × Word) := do
  let cfg ← getCfg
  match status with
  | .ok => pure (cfg.txOkSw1, cfg.txOkSw2)
  | .fail =>
    let t ← draw Config.freeTiming
    pure (cfg.txFailSw1, timingWord t)

/-- The statistics after a message completes (rules R52, R155, R172). -/
def txStats (status : TxStatus) (t : Stats) : Stats :=
  match status with
  | .ok => { t with tx := t.tx + 1 }
  | .fail => { t with txfail := t.txfail + 1 }

/-- Count a completed message; a success reloads the sanity timer (rules R155, R172, R209). -/
def countTx (status : TxStatus) (c : Ctl) : Ctl :=
  match status with
  | .ok => sanityReloadCtl (c.setStats (txStats .ok c.stats))
  | .fail => c.setStats (txStats .fail c.stats)

/-- `TxComplete(status)` (rule R155). -/
def txComplete (i : Inst) (status : TxStatus) : Op Unit := do
  let c ← getCtl i
  let sw ← txStatus status
  statusPair i .txStatus c.classic.xptr sw.1 sw.2
  changeCtl i (countTx status)
  csrDevice i Csr.xiMask 0
  changeCtl i (·.setXptr (c.classic.xptr + descBytes))
  rxDispatch i

/-- Hand a frame to the transport; the walk then waits for its completion (rules R154, R171, R182). -/
def handOff (i : Inst) (p : Addr) (f : List Byte) : Op Unit := do
  let c ← getCtl i
  emit (.write i f c.tx.gen)
  changeCtl i fun c => c.setTxpend (some { addr := p, gen := c.tx.gen })

/-- `TxEom(w)` (rule R154; rules R124, R131, R156). -/
def txEom (i : Inst) (d : Desc) : Op Unit := do
  let c ← getCtl i
  let cfg ← getCfg
  let f := c.tx.txbuf
  changeCtl i (·.setTxbuf [])
  if descSetup d then
    setupProcess i f
    rqInsert i .setupResponse f
    txComplete i .ok
  else if loopsBack c.classic.csr then
    if setupMatches c.setup f then rqInsert i .loopback f
    txComplete i .ok
  else if !(cfg.unit i).attached then
    txComplete i .fail
  else
    handOff i c.classic.xptr f
    stopWith .suspended

/-- Complete a segment that is not the end of its message (rules R90, R152). -/
def txSegmentDone (i : Inst) (p : Addr) : Op Unit := do
  statusPair i .txStatus p txMoreSw1 txMoreSw2
  changeCtl i (·.setXptr (p + descBytes))

/-- Append a descriptor's bytes to the transmit buffer (rule R153). -/
def txGather (i : Inst) (ctx : NxmCtx) (len : Nat) (start : Addr) : Op Unit := do
  let cfg ← getCfg
  let bytes ← readBytes i ctx len start
  changeCtl i fun c => c.setTxbuf (keepUpTo cfg.txbufMax c.tx.txbuf bytes)

/-- One pass of the transmit walk (rule R152). -/
def txPass (i : Inst) (_ : Unit) : Op (Pass Unit) := do
  let c ← getCtl i
  let d ← fetchDesc i c.classic.xptr
  if !descValid d then
    csrDevice i Csr.xlMask 0
    pure (.ended ())
  else if descChain d then
    changeCtl i (·.setXptr (descAddr d))
    pure (.again ())
  else
    txGather i .txData (descLen d) (descStart d)
    if descEom d then txEom i d else txSegmentDone i c.classic.xptr
    pure (.again ())

/-- `TxDispatch()` (rule R152). -/
def txDispatch (i : Inst) : Op Unit := do
  let c ← getCtl i
  if c.classic.csr.getLsbD Csr.XL || c.tx.txpend.isSome then pure () else classicWalk i (txPass i)

end Sys2Proof.Machine
end

