-- ==== Sys2Proof/Machine/TurboRing.lean ====
section
/-! DEFINITION. Turbo mode and the ring walker (43_turbo_ring.md). -/

namespace Sys2Proof.Machine

/-- What `TurboEnter()` does to the instance, but for its pending flag, which `ClrInt` clears (rule R161). -/
def turboEnterCtl (c : Ctl) : Ctl :=
  sanityDisarmCtl
    (((((c.setMode .turbo).setTurbo
      { c.turbo with
        srr := { fes := false, nxm := false, ta := true, rsp := 0 }
        icrEn := false
        tlatch := false
        ringsStarted := false
        ibaLo := 0
        iba := 0 }).setRxSubscribed false).setTx { txbuf := [], txpend := none, gen := c.tx.gen + 1 }))

/-- `TurboEnter()` (rule R161). -/
def turboEnter (i : Inst) : Op Unit := change fun s => clrInt i (onCtl i turboEnterCtl s)

/-- `SlotDone(base, N, idx, status)` (rule R167). -/
def slotDone (i : Inst) (base : Addr) (n idx : Nat) (status : Word) : Op Unit := do
  let cfg ← getCfg
  let l := cfg.layout
  let p := slotAddr l base idx
  writeWord i .ring (offsetAddr p l.slotStatus) status
  let next ← readWord i .ring (offsetAddr (slotAddr l base ((idx + 1) % n)) l.slotOwner)
  barrier
  writeWord i .ring (offsetAddr p l.slotOwner) (slotOwnerWord l (slotOwned l next))

/-- A batch's end: one interrupt request if it consumed a slot (rule R169). -/
def batchDone (i : Inst) (consumed : Nat) : Op Unit :=
  if 0 < consumed then change (latchTurbo i) else pure ()

/-- Fill the owned receive slot at `p` with the next segment of the head item (the body of the loop of rule R170). -/
def ringRxFill (i : Inst) (p : Addr) (c : Ctl) (q : Item) : Op Unit := do
  let cfg ← getCfg
  let l := cfg.layout
  let a0 ← readWord i .ring (offsetAddr p l.slotAddrLo)
  let a1 ← readWord i .ring (offsetAddr p l.slotAddrHi)
  let lf ← readWord i .ring (offsetAddr p l.slotLenFlags)
  let bytes := segment q (slotLen l lf)
  writeBytes i .ring (splitAddr l.slotAddrHiLo a1 a0) bytes
  writeWord i .ring (offsetAddr p l.slotLenFlags)
    (slotLenWord l (slotLen l lf) (decide (q.offset = 0)) (segmentLast q (slotLen l lf)))
  slotDone i c.turbo.rxRingBase cfg.rxRingN c.turbo.rxIdx
    (slotRxStatus l bytes.length (decide (0 < c.queue.loss)))
  changeCtl i (deliverCtl (slotLen l lf))
  changeCtl i (·.setRxIdx ((c.turbo.rxIdx + 1) % cfg.rxRingN))

/-- One pass of the receive ring walk; the number is the slots consumed (rule R170). -/
def ringRxPass (i : Inst) (consumed : Nat) : Op (Pass Nat) := do
  let c ← getCtl i
  let cfg ← getCfg
  match c.queue.readq with
  | [] => pure (.ended consumed)
  | q :: _ =>
    let p := slotAddr cfg.layout c.turbo.rxRingBase c.turbo.rxIdx
    let o ← readWord i .ring (offsetAddr p cfg.layout.slotOwner)
    if !slotOwned cfg.layout o then pure (.ended consumed)
    else
      ringRxFill i p c q
      pure (.again (consumed + 1))

/-- `RingRx()` (rule R170). -/
def ringRx (i : Inst) : Op Unit := do
  let c ← getCtl i
  if c.turbo.ringsStarted then
    let consumed ← freeWalk i (ringRxPass i) 0
    batchDone i consumed

/-- Return a transmit slot and move to the next (rules R171, R172). -/
def ringTxDone (i : Inst) (failed : Bool) : Op Unit := do
  let c ← getCtl i
  let cfg ← getCfg
  slotDone i c.turbo.txRingBase cfg.txRingN c.turbo.txIdx (slotTxStatus cfg.layout failed)
  changeCtl i (·.setTxIdx ((c.turbo.txIdx + 1) % cfg.txRingN))

/-- The end of a turbo packet: a failure at once without a transport, else the hand-off, which suspends the walk
(rule R171). -/
def ringTxPacket (i : Inst) (p : Addr) (consumed : Nat) : Op Unit := do
  let c ← getCtl i
  let cfg ← getCfg
  let f := c.tx.txbuf
  changeCtl i (·.setTxbuf [])
  if !(cfg.unit i).attached then
    ringTxDone i true
    changeCtl i (countTx .fail)
  else
    handOff i p f
    batchDone i consumed
    stopWith .suspended

/-- One pass of the transmit ring walk; the number is the slots consumed (rule R171). -/
def ringTxPass (i : Inst) (consumed : Nat) : Op (Pass Nat) := do
  let c ← getCtl i
  let cfg ← getCfg
  let l := cfg.layout
  let p := slotAddr l c.turbo.txRingBase c.turbo.txIdx
  let o ← readWord i .ring (offsetAddr p l.slotOwner)
  if !slotOwned l o then pure (.ended consumed)
  else
    let a0 ← readWord i .ring (offsetAddr p l.slotAddrLo)
    let a1 ← readWord i .ring (offsetAddr p l.slotAddrHi)
    let lf ← readWord i .ring (offsetAddr p l.slotLenFlags)
    if lf.getLsbD l.stp then changeCtl i (·.setTxbuf [])
    txGather i .ring (slotLen l lf) (splitAddr l.slotAddrHiLo a1 a0)
    if lf.getLsbD l.enp then ringTxPacket i p consumed else ringTxDone i false
    pure (.again (consumed + 1))

/-- `RingTx(c0)` (rule R171). -/
def ringTx (i : Inst) (c0 : Nat) : Op Unit := do
  let c ← getCtl i
  if c.turbo.ringsStarted && !c.tx.txpend.isSome then
    let consumed ← freeWalk i (ringTxPass i) c0
    batchDone i consumed

/-- What START does to the instance once its init block is loaded (rule R165). -/
def startedCtl (c : Ctl) : Ctl :=
  ((((c.setRxIdx 0).setTxIdx 0).setRingsStarted true).setRxSubscribed true).setSrr
    { c.turbo.srr with fes := false, nxm := false, rsp := 1 }

/-- `TurboStart()` (rule R165). -/
def turboStart (i : Inst) : Op Unit := do
  let c ← getCtl i
  if c.tx.txpend.isSome then faultStop .startWhileSending
  initBlockLoad i
  changeCtl i startedCtl
  change (latchTurbo i)
  ringRx i

/-- `TurboTxComplete(status)` (rule R172). `txpend` is idle already (rule R183). -/
def turboTxComplete (i : Inst) (status : TxStatus) : Op Unit := do
  let c ← getCtl i
  let cfg ← getCfg
  slotDone i c.turbo.txRingBase cfg.txRingN c.turbo.txIdx
    (slotTxStatus cfg.layout (decide (status = .fail)))
  changeCtl i (countTx status)
  changeCtl i (·.setTxIdx ((c.turbo.txIdx + 1) % cfg.txRingN))
  changeCtl i (·.setTxpend none)
  ringTx i 1

end Sys2Proof.Machine
end

