-- ==== Sys2Proof/Machine/Registers.lean ====
section
/-! DEFINITION. What the register-window accesses do (40_register_window.md), one shared operation for each rule; the meanings
of the three classes call them. -/

namespace Sys2Proof.Machine

/-- An access of a class runs in an instance whose mode forms that class, and has no meaning in another (rules R76, R79,
log 9). -/
def inMode (m : Mode) (i : Inst) (op : Op Unit) (s : State) : Host.Outcome State Fault Refusal :=
  if (s.ctl i).mode = m then runOp op s else .refused .wrongMode

/-! ### CSR changes -/

/-- A bit goes from 0 to 1. -/
def rises (bit : Nat) (old new : Word) : Bool := !old.getLsbD bit && new.getLsbD bit

/-- A bit goes from 1 to 0. -/
def falls (bit : Nat) (old new : Word) : Bool := old.getLsbD bit && !new.getLsbD bit

/-- What the edges of SE do: arm or disarm the sanity timer (rules R102, R208). -/
def sanityEdgeCtl (old new : Word) (c : Ctl) : Ctl :=
  if rises Csr.SE old new then sanityArmCtl c
  else if falls Csr.SE old new then sanityDisarmCtl c
  else c

/-- What the edges of RE do to the subscription (rules R27, R102). -/
def receiverEdgeCtl (old new : Word) (c : Ctl) : Ctl :=
  if rises Csr.RE old new then c.setRxSubscribed true
  else if falls Csr.RE old new then c.setRxSubscribed false
  else c

/-- The part of `CsrSetClr(set, clr)` before its walk and its reset: the change with its interrupt, and the edges of SE
and RE (rule R102). -/
def csrEdges (i : Inst) (set clr : Word) (s : State) : State :=
  let old := (s.ctl i).classic.csr
  let new := csrAfter old set clr
  onCtl i (fun c => receiverEdgeCtl old new (sanityEdgeCtl old new c)) (csrChange i set clr s)

/-- `CsrSetClr(set, clr)` (rule R102): the change and its edges, on a rising edge of RE the dispatch when there is
something to deliver and somewhere to deliver it, and the reset last. -/
def csrSetClr (i : Inst) (set clr : Word) : Op Unit := do
  let c ← getCtl i
  let old := c.classic.csr
  let new := csrAfter old set clr
  change (csrEdges i set clr)
  if rises Csr.RE old new && !new.getLsbD Csr.RL && !c.queue.readq.isEmpty then rxDispatch i
  if falls Csr.SR old new then resetFull i

/-! ### Reads -/

/-- Yield a station byte under a drawn high byte (rules R103, R104, R115). -/
def yieldStation (lo : Byte) : Op Unit := do
  let hi ← draw Config.freeByte
  yieldData (wordOf hi lo)

/-- Read a classic slot 0 or 1: a station byte, or a checksum byte while EL is set (rule R103). -/
def readStationOrCheck (i : Inst) (k : Nat) : Op Unit := do
  let c ← getCtl i
  let cfg ← getCfg
  let mac := (cfg.unit i).mac
  yieldStation (if c.classic.csr.getLsbD Csr.EL then chkByte mac k else macByte mac k)

/-- Read a station byte (rules R104, R115). -/
def readStation (i : Inst) (k : Nat) : Op Unit := do
  let cfg ← getCfg
  yieldStation (macByte (cfg.unit i).mac k)

/-- Read VAR (rule R105). -/
def readVar (i : Inst) : Op Unit := do
  let c ← getCtl i
  yieldData c.classic.var

/-- Read CSR (rule R106). -/
def readCsr (i : Inst) : Op Unit := do
  let c ← getCtl i
  let cfg ← getCfg
  let carrier ← draw Config.freeBit
  yieldData (csrRead c.classic.csr carrier (cfg.unit i).attached)

/-- Read SRR (rule R116). -/
def readSrr (i : Inst) : Op Unit := do
  let c ← getCtl i
  let cfg ← getCfg
  yieldData (srrWord cfg.layout c.turbo.srr)

/-- Read the reserved slot 7 of turbo mode (rule R117). -/
def readReserved : Op Unit := do
  let v ← draw Config.freeWord
  yieldData v

/-! ### Writes -/

/-- Write a protected or unassigned slot: no effect (rules R98, R107, R118). -/
def writeIgnored : Op Unit := pure ()

/-- Write `RBDL_LO` (rule R108). -/
def writeRbdlLo (i : Inst) (d : Word) : Op Unit := changeCtl i (·.setRbdlLo d)

/-- Write `XBDL_LO` (rule R110). -/
def writeXbdlLo (i : Inst) (d : Word) : Op Unit := changeCtl i (·.setXbdlLo d)

/-- The handshake of rule R162 is complete with this write. -/
def handshakes (cfg : Config) (i : Inst) (c : Ctl) (d : Word) : Bool :=
  decide ((cfg.unit i).type = .turbo) && decide (c.mode = .compatible)
    && decide (c.classic.rbdlLo = cfg.handshakeLo) && decide (d = cfg.handshakeHi)

/-- Write `RBDL_HI`: enter turbo mode, or make the receive list valid and dispatch (rule R109). -/
def writeRbdlHi (i : Inst) (d : Word) : Op Unit := do
  let c ← getCtl i
  let cfg ← getCfg
  if handshakes cfg i c d then turboEnter i
  else
    changeCtl i (·.setRptr (addrOf d c.classic.rbdlLo))
    csrDevice i 0 Csr.rlMask
    rxDispatch i

/-- Write `XBDL_HI`: make the transmit list valid and dispatch; a fault while a message is with the transport (rules
R111, R225). -/
def writeXbdlHi (i : Inst) (d : Word) : Op Unit := do
  let c ← getCtl i
  if c.tx.txpend.isSome then faultStop .bdlRewriteWhileSending
  changeCtl i (·.setXptr (addrOf d c.classic.xbdlLo))
  csrDevice i 0 Csr.xlMask
  txDispatch i

/-- The mode a VAR value selects on an instance that has the choice (rule R112). -/
def varMode (type : DeviceType) (old : Mode) (var : Word) : Mode :=
  if type = .legacy then old else if var.getLsbD Var.MS then .compatible else .legacy

/-- Write VAR (rule R112). -/
def writeVar (i : Inst) (d : Word) : Op Unit := do
  let cfg ← getCfg
  let type := (cfg.unit i).type
  changeCtl i fun c =>
    (c.setVar (varAfter type c.classic.var d)).setMode (varMode type c.mode (varAfter type c.classic.var d))

/-- Write CSR (rule R113). -/
def writeCsr (i : Inst) (d : Word) : Op Unit := csrSetClr i (csrSetMask d) (csrClrMask d)

/-- Write `IBA_LO` (rule R119). -/
def writeIbaLo (i : Inst) (d : Word) : Op Unit := changeCtl i (·.setIbaLo d)

/-- Write `IBA_HI` (rule R120). -/
def writeIbaHi (i : Inst) (d : Word) : Op Unit := changeCtl i fun c => c.setIba (addrOf d c.turbo.ibaLo)

/-- Write ICR (rule R121). -/
def writeIcr (i : Inst) (d : Word) : Op Unit := do
  let cfg ← getCfg
  changeCtl i (·.setIcrEn (d.getLsbD cfg.layout.icrEn))
  change (intTurbo i)

/-- Write SRQR (rule R122). -/
def writeSrqr (i : Inst) (d : Word) : Op Unit := do
  let cfg ← getCfg
  if d.getLsbD cfg.layout.srqStart then
    turboStart i
    sanityReload i

/-- Write ARQR (rule R123). -/
def writeArqr (i : Inst) (d : Word) : Op Unit := do
  let cfg ← getCfg
  if d.getLsbD cfg.layout.arqSr then resetFull i
  else
    if d.getLsbD cfg.layout.arqRrq then ringRx i
    if d.getLsbD cfg.layout.arqTrq then ringTx i 0

end Sys2Proof.Machine
end

