-- ==== Sys2Proof/Machine/Compatible.lean ====
section
/-! DEFINITION. The meanings of the register-window accesses in compatible mode (class 01). -/

namespace Sys2Proof.Machine

/-- `C.RD.SA0` (rule R103). -/
def execCRdSa0 (i : Inst) (s : State) : Host.Outcome State Fault Refusal :=
  inMode .compatible i (readStationOrCheck i 0) s

/-- `C.RD.SA1` (rule R103). -/
def execCRdSa1 (i : Inst) (s : State) : Host.Outcome State Fault Refusal :=
  inMode .compatible i (readStationOrCheck i 1) s

/-- `C.RD.SA2` (rule R104). -/
def execCRdSa2 (i : Inst) (s : State) : Host.Outcome State Fault Refusal :=
  inMode .compatible i (readStation i 2) s

/-- `C.RD.SA3` (rule R104). -/
def execCRdSa3 (i : Inst) (s : State) : Host.Outcome State Fault Refusal :=
  inMode .compatible i (readStation i 3) s

/-- `C.RD.SA4` (rule R104). -/
def execCRdSa4 (i : Inst) (s : State) : Host.Outcome State Fault Refusal :=
  inMode .compatible i (readStation i 4) s

/-- `C.RD.SA5` (rule R104). -/
def execCRdSa5 (i : Inst) (s : State) : Host.Outcome State Fault Refusal :=
  inMode .compatible i (readStation i 5) s

/-- `C.RD.VAR` (rule R105). -/
def execCRdVar (i : Inst) (s : State) : Host.Outcome State Fault Refusal :=
  inMode .compatible i (readVar i) s

/-- `C.RD.CSR` (rule R106). -/
def execCRdCsr (i : Inst) (s : State) : Host.Outcome State Fault Refusal :=
  inMode .compatible i (readCsr i) s

/-- `C.WR.SA0` (rule R107). -/
def execCWrSa0 (i : Inst) (_d : Word) (s : State) : Host.Outcome State Fault Refusal :=
  inMode .compatible i writeIgnored s

/-- `C.WR.SA1` (rule R107). -/
def execCWrSa1 (i : Inst) (_d : Word) (s : State) : Host.Outcome State Fault Refusal :=
  inMode .compatible i writeIgnored s

/-- `C.WR.RBDL_LO` (rule R108). -/
def execCWrRbdlLo (i : Inst) (d : Word) (s : State) : Host.Outcome State Fault Refusal :=
  inMode .compatible i (writeRbdlLo i d) s

/-- `C.WR.RBDL_HI` (rule R109). -/
def execCWrRbdlHi (i : Inst) (d : Word) (s : State) : Host.Outcome State Fault Refusal :=
  inMode .compatible i (writeRbdlHi i d) s

/-- `C.WR.XBDL_LO` (rule R110). -/
def execCWrXbdlLo (i : Inst) (d : Word) (s : State) : Host.Outcome State Fault Refusal :=
  inMode .compatible i (writeXbdlLo i d) s

/-- `C.WR.XBDL_HI` (rule R111). -/
def execCWrXbdlHi (i : Inst) (d : Word) (s : State) : Host.Outcome State Fault Refusal :=
  inMode .compatible i (writeXbdlHi i d) s

/-- `C.WR.VAR` (rule R112). -/
def execCWrVar (i : Inst) (d : Word) (s : State) : Host.Outcome State Fault Refusal :=
  inMode .compatible i (writeVar i d) s

/-- `C.WR.CSR` (rule R113). -/
def execCWrCsr (i : Inst) (d : Word) (s : State) : Host.Outcome State Fault Refusal :=
  inMode .compatible i (writeCsr i d) s

end Sys2Proof.Machine
end

