-- ==== Sys2Proof/Machine/Events.lean ====
section
/-! DEFINITION. The environment events (rules R77, R78): acknowledge, tick, received frame, transmit completion, self-test
completion, bus reset, power-on, and the reserved codes. -/

namespace Sys2Proof.Machine

/-! ### ACK -/

/-- The vector an instance answers an acknowledge with (rules R35, R136, R199). -/
def instVector (c : Ctl) : Word :=
  if c.mode = .turbo then vectorOf c.init.vector else vectorOf c.classic.var

/-- The instance an acknowledge serves: the first pending one in the scan order (rule R199). -/
def ackTarget (s : State) : Option Inst :=
  if s.i0.pending then some .i0 else if s.i1.pending then some .i1 else none

/-- What serving an acknowledge does to the instance, but for its pending flag (rule R199). -/
def ackCtl (c : Ctl) : Ctl := if c.mode = .turbo then c.setTlatch false else c

/-- The state after an acknowledge (rule R199). -/
def ackState (s : State) : State :=
  match ackTarget s with
  | some i => (onCtl i ackCtl (clrInt i s)).setYield (.vector (some (instVector (s.ctl i))))
  | none => s.setYield (.vector none)

/-- `ACK` (rule R199). -/
def execAck (s : State) : Host.Outcome State Fault Refusal := runOp (change ackState) s

/-! ### TICK -/

/-- What a tick does (rule R207). -/
def tick (i : Inst) : Op Unit := do
  sanityTick i
  sysidTick i

/-- `TICK` (rule R207). -/
def execTick (i : Inst) (s : State) : Host.Outcome State Fault Refusal := runOp (tick i) s

/-! ### RXF and TXDONE -/

/-- What a received frame does (rule R179). -/
def receive (i : Inst) (frame : List Byte) : Op Unit := do
  rqInsert i .normal frame
  let c ← getCtl i
  if c.mode = .turbo then ringRx i else rxDispatch i

/-- `RXF` (rule R179). The environment delivers it only to an attached, subscribed instance (log 9). -/
def execRxf (i : Inst) (frame : List Byte) (s : State) : Host.Outcome State Fault Refusal :=
  if (s.unit i).attached && (s.ctl i).rxSubscribed then runOp (receive i frame) s
  else .refused .eventNotEnabled

/-- A completion carries the tag of the message that is with the transport (rules R182, R183). -/
def tagMatches (c : Ctl) (tag : Nat) : Bool :=
  match c.tx.txpend with
  | none => false
  | some p => decide (tag = p.gen) && decide (p.gen = c.tx.gen)

/-- What a completion with the right tag does (rule R183). -/
def completed (i : Inst) (status : TxStatus) : Op Unit := do
  changeCtl i (·.setTxpend none)
  let c ← getCtl i
  if c.mode = .turbo then turboTxComplete i status
  else
    txComplete i status
    txDispatch i

/-- What a transmit completion does; a stale one is ignored (rule R183). -/
def transmitDone (i : Inst) (status : TxStatus) (tag : Nat) : Op Unit := do
  let c ← getCtl i
  if tagMatches c tag then completed i status

/-- `TXDONE` (rule R183). -/
def execTxdone (i : Inst) (status : TxStatus) (tag : Nat) (s : State) : Host.Outcome State Fault Refusal :=
  runOp (transmitDone i status tag) s

/-! ### STDONE -/

/-- What the end of a self-test does (rule R114). -/
def selfTestDone (i : Inst) : Op Unit := do
  let cfg ← getCfg
  changeCtl i fun c => c.setVar (varTested c.classic.var (if (cfg.unit i).attached then cfg.stOk else cfg.stNolink))

/-- `STDONE` (rule R114). The environment delivers it only while the self-test is active (log 9). -/
def execStdone (i : Inst) (s : State) : Host.Outcome State Fault Refusal :=
  if (s.ctl i).classic.var.getLsbD Var.RS then runOp (selfTestDone i) s
  else .refused .eventNotEnabled

/-! ### BUSRESET and POWERON -/

/-- `BUSRESET` (rule R219). -/
def execBusreset (s : State) : Host.Outcome State Fault Refusal :=
  runOp (do resetFull .i0; resetFull .i1) s

/-- What power-on does to an instance before its reset (rule R220). -/
def powerOnCtl (c : Ctl) : Ctl :=
  (c.setTx { c.tx with gen := 0 }).setStats
    { runt := 0, giant := 0, rx := 0, tx := 0, txfail := 0, setup := 0, dropped := 0 }

/-- One instance's power-on (rule R220). -/
def powerOnInst (i : Inst) : Op Unit := do
  changeCtl i powerOnCtl
  resetFull i

/-- `POWERON` (rule R220). -/
def execPoweron (s : State) : Host.Outcome State Fault Refusal :=
  runOp (do powerOnInst .i0; powerOnInst .i1; change (·.setCoord 0 false)) s

/-! ### Reserved codes -/

/-- `RESERVED.37`: refused, with no other effect (rule R78, log 11). -/
def execReserved37 (s : State) : Host.Outcome State Fault Refusal := runOp (refuse .reservedEvent) s

/-- `RESERVED.38-3F`: refused, with no other effect (rule R78, log 11). -/
def execReserved38to3F (_code : BitVec 6) (s : State) : Host.Outcome State Fault Refusal :=
  runOp (refuse .reservedEvent) s

end Sys2Proof.Machine
end

