-- ==== Sys2Proof/Machine/Legacy.lean ====
section
/-! DEFINITION. The meanings of the register-window accesses in legacy mode (class 00). -/

namespace Sys2Proof.Machine

/-- `L.RD.SA0` (rule R103). -/
def execLRdSa0 (i : Inst) (s : State) : Host.Outcome State Fault Refusal :=
  inMode .legacy i (readStationOrCheck i 0) s

/-- `L.RD.SA1` (rule R103). -/
def execLRdSa1 (i : Inst) (s : State) : Host.Outcome State Fault Refusal :=
  inMode .legacy i (readStationOrCheck i 1) s

/-- `L.RD.SA2` (rule R104). -/
def execLRdSa2 (i : Inst) (s : State) : Host.Outcome State Fault Refusal :=
  inMode .legacy i (readStation i 2) s

/-- `L.RD.SA3` (rule R104). -/
def execLRdSa3 (i : Inst) (s : State) : Host.Outcome State Fault Refusal :=
  inMode .legacy i (readStation i 3) s

/-- `L.RD.SA4` (rule R104). -/
def execLRdSa4 (i : Inst) (s : State) : Host.Outcome State Fault Refusal :=
  inMode .legacy i (readStation i 4) s

/-- `L.RD.SA5` (rule R104). -/
def execLRdSa5 (i : Inst) (s : State) : Host.Outcome State Fault Refusal :=
  inMode .legacy i (readStation i 5) s

/-- `L.RD.VAR` (rule R105). -/
def execLRdVar (i : Inst) (s : State) : Host.Outcome State Fault Refusal :=
  inMode .legacy i (readVar i) s

/-- `L.RD.CSR` (rule R106). -/
def execLRdCsr (i : Inst) (s : State) : Host.Outcome State Fault Refusal :=
  inMode .legacy i (readCsr i) s

/-- `L.WR.SA0` (rule R107). -/
def execLWrSa0 (i : Inst) (_d : Word) (s : State) : Host.Outcome State Fault Refusal :=
  inMode .legacy i writeIgnored s

/-- `L.WR.SA1` (rule R107). -/
def execLWrSa1 (i : Inst) (_d : Word) (s : State) : Host.Outcome State Fault Refusal :=
  inMode .legacy i writeIgnored s

/-- `L.WR.RBDL_LO` (rule R108). -/
def execLWrRbdlLo (i : Inst) (d : Word) (s : State) : Host.Outcome State Fault Refusal :=
  inMode .legacy i (writeRbdlLo i d) s

/-- `L.WR.RBDL_HI` (rule R109). -/
def execLWrRbdlHi (i : Inst) (d : Word) (s : State) : Host.Outcome State Fault Refusal :=
  inMode .legacy i (writeRbdlHi i d) s

/-- `L.WR.XBDL_LO` (rule R110). -/
def execLWrXbdlLo (i : Inst) (d : Word) (s : State) : Host.Outcome State Fault Refusal :=
  inMode .legacy i (writeXbdlLo i d) s

/-- `L.WR.XBDL_HI` (rule R111). -/
def execLWrXbdlHi (i : Inst) (d : Word) (s : State) : Host.Outcome State Fault Refusal :=
  inMode .legacy i (writeXbdlHi i d) s

/-- `L.WR.VAR` (rule R112). -/
def execLWrVar (i : Inst) (d : Word) (s : State) : Host.Outcome State Fault Refusal :=
  inMode .legacy i (writeVar i d) s

/-- `L.WR.CSR` (rule R113). -/
def execLWrCsr (i : Inst) (d : Word) (s : State) : Host.Outcome State Fault Refusal :=
  inMode .legacy i (writeCsr i d) s

end Sys2Proof.Machine
end

