-- ==== Sys2Proof/Machine/TurboMode.lean ====
section
/-! DEFINITION. The meanings of the register-window accesses in turbo mode (class 10). -/

namespace Sys2Proof.Machine

/-- `T.RD.SA0` (rule R115). -/
def execTRdSa0 (i : Inst) (s : State) : Host.Outcome State Fault Refusal :=
  inMode .turbo i (readStation i 0) s

/-- `T.RD.SA1` (rule R115). -/
def execTRdSa1 (i : Inst) (s : State) : Host.Outcome State Fault Refusal :=
  inMode .turbo i (readStation i 1) s

/-- `T.RD.SA2` (rule R115). -/
def execTRdSa2 (i : Inst) (s : State) : Host.Outcome State Fault Refusal :=
  inMode .turbo i (readStation i 2) s

/-- `T.RD.SA3` (rule R115). -/
def execTRdSa3 (i : Inst) (s : State) : Host.Outcome State Fault Refusal :=
  inMode .turbo i (readStation i 3) s

/-- `T.RD.SA4` (rule R115). -/
def execTRdSa4 (i : Inst) (s : State) : Host.Outcome State Fault Refusal :=
  inMode .turbo i (readStation i 4) s

/-- `T.RD.SA5` (rule R115). -/
def execTRdSa5 (i : Inst) (s : State) : Host.Outcome State Fault Refusal :=
  inMode .turbo i (readStation i 5) s

/-- `T.RD.SRR` (rule R116). -/
def execTRdSrr (i : Inst) (s : State) : Host.Outcome State Fault Refusal :=
  inMode .turbo i (readSrr i) s

/-- `T.RD.RSV` (rule R117). -/
def execTRdRsv (i : Inst) (s : State) : Host.Outcome State Fault Refusal :=
  inMode .turbo i readReserved s

/-- `T.WR.IGN0` (rule R118). -/
def execTWrIgn0 (i : Inst) (_d : Word) (s : State) : Host.Outcome State Fault Refusal :=
  inMode .turbo i writeIgnored s

/-- `T.WR.IGN1` (rule R118). -/
def execTWrIgn1 (i : Inst) (_d : Word) (s : State) : Host.Outcome State Fault Refusal :=
  inMode .turbo i writeIgnored s

/-- `T.WR.IBA_LO` (rule R119). -/
def execTWrIbaLo (i : Inst) (d : Word) (s : State) : Host.Outcome State Fault Refusal :=
  inMode .turbo i (writeIbaLo i d) s

/-- `T.WR.IBA_HI` (rule R120). -/
def execTWrIbaHi (i : Inst) (d : Word) (s : State) : Host.Outcome State Fault Refusal :=
  inMode .turbo i (writeIbaHi i d) s

/-- `T.WR.ICR` (rule R121). -/
def execTWrIcr (i : Inst) (d : Word) (s : State) : Host.Outcome State Fault Refusal :=
  inMode .turbo i (writeIcr i d) s

/-- `T.WR.IGN5` (rule R118). -/
def execTWrIgn5 (i : Inst) (_d : Word) (s : State) : Host.Outcome State Fault Refusal :=
  inMode .turbo i writeIgnored s

/-- `T.WR.SRQR` (rule R122). -/
def execTWrSrqr (i : Inst) (d : Word) (s : State) : Host.Outcome State Fault Refusal :=
  inMode .turbo i (writeSrqr i d) s

/-- `T.WR.ARQR` (rule R123). -/
def execTWrArqr (i : Inst) (d : Word) (s : State) : Host.Outcome State Fault Refusal :=
  inMode .turbo i (writeArqr i d) s

end Sys2Proof.Machine
end

