-- ==== Sys2Proof/Machine/Dispatch.lean ====
section
/-! DEFINITION. The meaning of every operation, one arm a constructor. -/

namespace Sys2Proof.Machine

def exec (i : Instr) (s : State) : Host.Outcome State Fault Refusal :=
  match i with
  | .lRdSa0 u => Sys2Proof.Machine.execLRdSa0 u s
  | .lRdSa1 u => Sys2Proof.Machine.execLRdSa1 u s
  | .lRdSa2 u => Sys2Proof.Machine.execLRdSa2 u s
  | .lRdSa3 u => Sys2Proof.Machine.execLRdSa3 u s
  | .lRdSa4 u => Sys2Proof.Machine.execLRdSa4 u s
  | .lRdSa5 u => Sys2Proof.Machine.execLRdSa5 u s
  | .lRdVar u => Sys2Proof.Machine.execLRdVar u s
  | .lRdCsr u => Sys2Proof.Machine.execLRdCsr u s
  | .lWrSa0 u d => Sys2Proof.Machine.execLWrSa0 u d s
  | .lWrSa1 u d => Sys2Proof.Machine.execLWrSa1 u d s
  | .lWrRbdlLo u d => Sys2Proof.Machine.execLWrRbdlLo u d s
  | .lWrRbdlHi u d => Sys2Proof.Machine.execLWrRbdlHi u d s
  | .lWrXbdlLo u d => Sys2Proof.Machine.execLWrXbdlLo u d s
  | .lWrXbdlHi u d => Sys2Proof.Machine.execLWrXbdlHi u d s
  | .lWrVar u d => Sys2Proof.Machine.execLWrVar u d s
  | .lWrCsr u d => Sys2Proof.Machine.execLWrCsr u d s
  | .cRdSa0 u => Sys2Proof.Machine.execCRdSa0 u s
  | .cRdSa1 u => Sys2Proof.Machine.execCRdSa1 u s
  | .cRdSa2 u => Sys2Proof.Machine.execCRdSa2 u s
  | .cRdSa3 u => Sys2Proof.Machine.execCRdSa3 u s
  | .cRdSa4 u => Sys2Proof.Machine.execCRdSa4 u s
  | .cRdSa5 u => Sys2Proof.Machine.execCRdSa5 u s
  | .cRdVar u => Sys2Proof.Machine.execCRdVar u s
  | .cRdCsr u => Sys2Proof.Machine.execCRdCsr u s
  | .cWrSa0 u d => Sys2Proof.Machine.execCWrSa0 u d s
  | .cWrSa1 u d => Sys2Proof.Machine.execCWrSa1 u d s
  | .cWrRbdlLo u d => Sys2Proof.Machine.execCWrRbdlLo u d s
  | .cWrRbdlHi u d => Sys2Proof.Machine.execCWrRbdlHi u d s
  | .cWrXbdlLo u d => Sys2Proof.Machine.execCWrXbdlLo u d s
  | .cWrXbdlHi u d => Sys2Proof.Machine.execCWrXbdlHi u d s
  | .cWrVar u d => Sys2Proof.Machine.execCWrVar u d s
  | .cWrCsr u d => Sys2Proof.Machine.execCWrCsr u d s
  | .tRdSa0 u => Sys2Proof.Machine.execTRdSa0 u s
  | .tRdSa1 u => Sys2Proof.Machine.execTRdSa1 u s
  | .tRdSa2 u => Sys2Proof.Machine.execTRdSa2 u s
  | .tRdSa3 u => Sys2Proof.Machine.execTRdSa3 u s
  | .tRdSa4 u => Sys2Proof.Machine.execTRdSa4 u s
  | .tRdSa5 u => Sys2Proof.Machine.execTRdSa5 u s
  | .tRdSrr u => Sys2Proof.Machine.execTRdSrr u s
  | .tRdRsv u => Sys2Proof.Machine.execTRdRsv u s
  | .tWrIgn0 u d => Sys2Proof.Machine.execTWrIgn0 u d s
  | .tWrIgn1 u d => Sys2Proof.Machine.execTWrIgn1 u d s
  | .tWrIbaLo u d => Sys2Proof.Machine.execTWrIbaLo u d s
  | .tWrIbaHi u d => Sys2Proof.Machine.execTWrIbaHi u d s
  | .tWrIcr u d => Sys2Proof.Machine.execTWrIcr u d s
  | .tWrIgn5 u d => Sys2Proof.Machine.execTWrIgn5 u d s
  | .tWrSrqr u d => Sys2Proof.Machine.execTWrSrqr u d s
  | .tWrArqr u d => Sys2Proof.Machine.execTWrArqr u d s
  | .ack => Sys2Proof.Machine.execAck s
  | .tick u => Sys2Proof.Machine.execTick u s
  | .rxf u frame => Sys2Proof.Machine.execRxf u frame s
  | .txdone u status tag => Sys2Proof.Machine.execTxdone u status tag s
  | .stdone u => Sys2Proof.Machine.execStdone u s
  | .busreset => Sys2Proof.Machine.execBusreset s
  | .poweron => Sys2Proof.Machine.execPoweron s
  | .reserved37 => Sys2Proof.Machine.execReserved37 s
  | .reserved38to3F code => Sys2Proof.Machine.execReserved38to3F code s

end Sys2Proof.Machine
end

