-- ==== Sys2Proof/Machine/Fetch.lean ====
section
/-! DEFINITION. How the environment's next input becomes an operation: the register windows on the bus (rules R56, R61), the
class the mode forms (rule R76), and which instances an operation needs. -/

namespace Sys2Proof.Machine

/-- What an input comes to. -/
inductive Fetched where
  /-- an operation, as its record -/
  | record (r : List Byte)
  /-- a byte access or an odd offset of a register window (rule R61) -/
  | badAccess
  /-- a bus access to neither window: not the block's (log 20) -/
  | elsewhere
  /-- the driver writes guest memory (rule R100) -/
  | driver (a : Addr) (bytes : List Byte)
  /-- a driver write that lands inside a later step (rule R69) -/
  | later (w : DriverWrite)
  deriving DecidableEq, Repr

/-- `mode_code(mode)`, the class bits (rule R76). -/
def modeCode : Mode → Nat
  | .legacy => 0
  | .compatible => 1
  | .turbo => 2

/-- The operation code of an access: class, direction, slot (rule R76). -/
def accessCode (m : Mode) (write : Bool) (slot : Nat) : Byte :=
  BitVec.ofNat 8 (16 * modeCode m + (if write then 8 else 0) + slot)

/-- The byte offset of a bus address in an instance's window of eight words (rule R20). A window that would run past the
top of the bus space does not wrap, which is the model's choice (log 20). -/
def windowOffset (base a : Addr) : Option Nat :=
  if base.toNat ≤ a.toNat ∧ a.toNat < base.toNat + 16 then some (a.toNat - base.toNat) else none

/-- The instance and byte offset a bus address selects (rules R17, R56). -/
def windowOf (cfg : Config) (a : Addr) : Option (Inst × Nat) :=
  match windowOffset cfg.unit0.base a with
  | some o => some (.i0, o)
  | none => (windowOffset cfg.unit1.base a).map fun o => (.i1, o)

/-- A bus access to a window: its record, formed under the mode in force (rules R76, R79), or refused (rule R61). -/
def busAccess (s : State) (a : Addr) (byteAccess write : Bool) (operand : List Byte) : Fetched :=
  match windowOf s.cfg a with
  | none => .elsewhere
  | some (i, o) =>
    if byteAccess || o % 2 == 1 then .badAccess
    else .record (accessCode (s.ctl i).mode write (o / 2) :: instByte i :: operand)

/-- What an input comes to. -/
def fetchInput (s : State) : Input → Fetched
  | .busRead a b => busAccess s a b false []
  | .busWrite a d b => busAccess s a b true [lowByte d, highByte d]
  | .operation r => .record r
  | .driverWrite a bytes => .driver a bytes
  | .driverConcurrent w => .later w

/-- A register-window write, before which every write of the driver is visible (rule R69). -/
def isRegisterWrite : Instr → Bool
  | .lWrSa0 _ _ | .lWrSa1 _ _ | .lWrRbdlLo _ _ | .lWrRbdlHi _ _
  | .lWrXbdlLo _ _ | .lWrXbdlHi _ _ | .lWrVar _ _ | .lWrCsr _ _
  | .cWrSa0 _ _ | .cWrSa1 _ _ | .cWrRbdlLo _ _ | .cWrRbdlHi _ _
  | .cWrXbdlLo _ _ | .cWrXbdlHi _ _ | .cWrVar _ _ | .cWrCsr _ _
  | .tWrIgn0 _ _ | .tWrIgn1 _ _ | .tWrIbaLo _ _ | .tWrIbaHi _ _
  | .tWrIcr _ _ | .tWrIgn5 _ _ | .tWrSrqr _ _ | .tWrArqr _ _ => true
  | .lRdSa0 _ | .lRdSa1 _ | .lRdSa2 _ | .lRdSa3 _
  | .lRdSa4 _ | .lRdSa5 _ | .lRdVar _ | .lRdCsr _
  | .cRdSa0 _ | .cRdSa1 _ | .cRdSa2 _ | .cRdSa3 _
  | .cRdSa4 _ | .cRdSa5 _ | .cRdVar _ | .cRdCsr _
  | .tRdSa0 _ | .tRdSa1 _ | .tRdSa2 _ | .tRdSa3 _
  | .tRdSa4 _ | .tRdSa5 _ | .tRdSrr _ | .tRdRsv _
  | .ack | .tick _ | .rxf _ _ | .txdone _ _ _ | .stdone _
  | .busreset | .poweron | .reserved37 | .reserved38to3F _ => false

/-- The state an operation finds: every write of the driver landed, for a register-window write (rule R69). -/
def settled (i : Instr) (s : State) : State := if isRegisterWrite i then landAll s else s

/-- The instances whose lock an operation takes (rules R6, R77): the one it addresses, both for a bus reset or power-on,
for an acknowledge the one it clears. That a bus reset or a power-on, with just one instance inside a step that never
ends, waits for that one before it resets either is the model's choice (log 24). -/
def needs (acked : Option Inst) : Instr → List Inst
  | .lRdSa0 i | .lRdSa1 i | .lRdSa2 i | .lRdSa3 i
  | .lRdSa4 i | .lRdSa5 i | .lRdVar i | .lRdCsr i
  | .cRdSa0 i | .cRdSa1 i | .cRdSa2 i | .cRdSa3 i
  | .cRdSa4 i | .cRdSa5 i | .cRdVar i | .cRdCsr i
  | .tRdSa0 i | .tRdSa1 i | .tRdSa2 i | .tRdSa3 i
  | .tRdSa4 i | .tRdSa5 i | .tRdSrr i | .tRdRsv i
  | .lWrSa0 i _ | .lWrSa1 i _ | .lWrRbdlLo i _ | .lWrRbdlHi i _
  | .lWrXbdlLo i _ | .lWrXbdlHi i _ | .lWrVar i _ | .lWrCsr i _
  | .cWrSa0 i _ | .cWrSa1 i _ | .cWrRbdlLo i _ | .cWrRbdlHi i _
  | .cWrXbdlLo i _ | .cWrXbdlHi i _ | .cWrVar i _ | .cWrCsr i _
  | .tWrIgn0 i _ | .tWrIgn1 i _ | .tWrIbaLo i _ | .tWrIbaHi i _
  | .tWrIcr i _ | .tWrIgn5 i _ | .tWrSrqr i _ | .tWrArqr i _
  | .tick i | .rxf i _ | .txdone i _ _ | .stdone i => [i]
  | .ack => acked.toList
  | .busreset | .poweron => [.i0, .i1]
  | .reserved37 | .reserved38to3F _ => []

/-- The first instance an operation needs that is inside a step that never ends (rule R9). -/
def blockedBy (s : State) (acked : Option Inst) (i : Instr) : Option Inst :=
  (needs acked i).find? fun u => (s.ctl u).hung

/-- The invariant of rule R193 at one state: `count` is the number of pending instances and `line` says it is not 0. -/
def coordinatorOk (s : State) : Bool :=
  decide (s.count = s.i0.pending.toNat + s.i1.pending.toNat) && decide (s.line = decide (0 < s.count))

end Sys2Proof.Machine
end

