-- ==== Sys2Proof/Machine/Cycle.lean ====
section
/-! DEFINITION. One step of the block: take the environment's next input, decode it, run it. -/

namespace Sys2Proof.Machine

/-- Run a decoded operation, unless an instance it needs is inside a step that never ends (rule R9). Every write of the
driver is visible to a register-window write (rule R69). -/
def runInstr (i : Instr) (s : State) : Host.Outcome State Fault Refusal :=
  match blockedBy s (ackTarget s) i with
  | some u => .fault (.instanceHung u)
  | none => exec i (settled i s)

/-- Decode a record and run its operation. -/
def runRecord (r : List Byte) (s : State) : Host.Outcome State Fault Refusal :=
  match decode r with
  | .ok i => runInstr i s
  | .error e => .refused (.undecodable e)

/-- What one input does. -/
def runFetched (f : Fetched) (s : State) : Host.Outcome State Fault Refusal :=
  match f with
  | .record r => runRecord r s
  | .badAccess => .next (refuseState .byteAccess s)
  | .elsewhere => .next s
  | .driver a bytes => .next (driverState a bytes s)
  | .later w => .next (s.setConcurrent (s.concurrent ++ [w]))

/-- Take the head of the inputs; with none the block waits (rule R222, log 2). -/
def runInputs (s : State) : Host.Outcome State Fault Refusal :=
  match s.inputs with
  | [] => .next s
  | x :: rest => runFetched (fetchInput s x) (s.setInputs rest)

/-- One step: a block with its fault mark set has stopped, and a state that breaks the coordinator's invariant sets the
mark (rules R53, R191, log 10). -/
def runStep (s : State) : Host.Outcome State Fault Refusal :=
  match s.fault with
  | some r => .fault (.blockFaulted r)
  | none => if coordinatorOk s then runInputs s else .next (s.setFault .invariant)

/-- The state in which the environment can deliver an operation's record: the instance it names is in the mode that forms
its class, subscribed for RXF, in a self-test for STDONE (rules R76, R114, R179, log 2). -/
def admitRecord (r : List Byte) (s : State) : State :=
  match instOf ((r.drop 1).headD 0) with
  | none => s
  | some i =>
    let code := r.headD 0
    if code < 0x10 then onCtl i (·.setMode .legacy) s
    else if code < 0x20 then onCtl i (·.setMode .compatible) s
    else if code < 0x30 then onCtl i (·.setMode .turbo) s
    else if code = 0x32 then onCtl i (·.setRxSubscribed true) s
    else if code = 0x34 then onCtl i (fun c => c.setVar (c.classic.var ||| 0x2000)) s
    else s

/-- The state with one more input, a record, before the others, and able to take it. -/
def feedRecord (r : List Byte) (s : State) : State :=
  (admitRecord r s).setInputs (.operation r :: s.inputs)

end Sys2Proof.Machine
end

