-- ==== Sys2Proof/Machine/Step.lean ====
section
/-! DEFINITION. The step function, and how a table word is placed for it. -/

namespace Sys2Proof.Machine

/-- One step of the block. -/
def step (s : State) : Host.Outcome State Fault Refusal := runStep s

/-- The state whose next input is the operation of a table word, every bit above the word's `nbits` 0. -/
def State.withFetchWord (s : State) (nbits w : Nat) : State := feedRecord (tableRecord nbits w) s

end Sys2Proof.Machine
end

