-- ==== Sys2Proof/Safety.lean ====
section
/-! DEFINITION. What counts as a legal state of the block, and the terms in which claims are stated: the operations of an
access, what guest memory holds and takes, when a structure in it can be read. -/

namespace Sys2Proof

/-- The other instance. -/
def Inst.other : Inst → Inst
  | .i0 => .i1
  | .i1 => .i0

end Sys2Proof

namespace Sys2Proof.Machine

/-! ### The accesses of rule R76 by mode and slot -/

/-- The read of a slot in a mode; slots 6 and 7 are the last two. -/
def readInstr (m : Mode) (slot : Fin 8) (i : Inst) : Instr :=
  match m with
  | .legacy => [Instr.lRdSa0 i, .lRdSa1 i, .lRdSa2 i, .lRdSa3 i, .lRdSa4 i, .lRdSa5 i, .lRdVar i, .lRdCsr i][slot]
  | .compatible => [Instr.cRdSa0 i, .cRdSa1 i, .cRdSa2 i, .cRdSa3 i, .cRdSa4 i, .cRdSa5 i, .cRdVar i, .cRdCsr i][slot]
  | .turbo => [Instr.tRdSa0 i, .tRdSa1 i, .tRdSa2 i, .tRdSa3 i, .tRdSa4 i, .tRdSa5 i, .tRdSrr i, .tRdRsv i][slot]

/-- The write of a slot in a mode. -/
def writeInstr (m : Mode) (slot : Fin 8) (i : Inst) (d : Word) : Instr :=
  match m with
  | .legacy =>
    [Instr.lWrSa0 i d, .lWrSa1 i d, .lWrRbdlLo i d, .lWrRbdlHi i d, .lWrXbdlLo i d, .lWrXbdlHi i d, .lWrVar i d,
      .lWrCsr i d][slot]
  | .compatible =>
    [Instr.cWrSa0 i d, .cWrSa1 i d, .cWrRbdlLo i d, .cWrRbdlHi i d, .cWrXbdlLo i d, .cWrXbdlHi i d, .cWrVar i d,
      .cWrCsr i d][slot]
  | .turbo =>
    [Instr.tWrIgn0 i d, .tWrIgn1 i d, .tWrIbaLo i d, .tWrIbaHi i d, .tWrIcr i d, .tWrIgn5 i d, .tWrSrqr i d,
      .tWrArqr i d][slot]

/-- The bus address of a slot of an instance's window (rule R20). -/
def slotBus (cfg : Config) (i : Inst) (slot : Fin 8) : Addr := (cfg.unit i).base + BitVec.ofNat 22 (2 * slot.val)

/-! ### Guest memory in claims -/

/-- The bytes at `n` addresses from `a` up. -/
def State.bytesAt (s : State) : Addr → Nat → List Byte
  | _, 0 => []
  | a, n + 1 => s.byteAt a :: s.bytesAt (a + 1) n

/-- `GMEM` backs `n` addresses from `a` up. -/
def bytesBacked (cfg : Config) : Addr → Nat → Bool
  | _, 0 => true
  | a, n + 1 => backed cfg a && bytesBacked cfg (a + 1) n

/-- A word access at `a` succeeds: the address is even and both bytes are backed (rules R55, R59). -/
def wordReady (cfg : Config) (a : Addr) : Bool := !a.getLsbD 0 && wordBacked cfg a

/-- The state after bytes are written from `a` up, in order (rule R58). -/
def State.wroteBytes : Addr → List Byte → State → State
  | _, [], s => s
  | a, b :: rest, s => State.wroteBytes (a + 1) rest ((s.putByte a b).addTrace (.byte a b))

/-- The state after a word is written. -/
def State.wroteWord (a : Addr) (v : Word) (s : State) : State := (s.putWord a v).addTrace (.word a v)

/-- The state after a status pair is written at a descriptor: the second word, the barrier, the first (rule R66). -/
def State.wrotePair (p : Addr) (sw1 sw2 : Word) (s : State) : State :=
  ((s.wroteWord (p + 10) sw2).addTrace .barrier).wroteWord (p + 8) sw1

/-- The state after a descriptor fetch at `p`: its flag word written, where the configuration writes it (rule R140). -/
def State.fetched (p : Addr) (s : State) : State := if s.cfg.writeFlagWord then s.wroteWord p 0xFFFF else s

/-- The descriptor in memory at `p` (rule R83). -/
def State.descAt (s : State) (p : Addr) : Desc :=
  { w0 := s.wordAt p, w1 := s.wordAt (p + 2), w2 := s.wordAt (p + 4)
    w3 := s.wordAt (p + 6), w4 := s.wordAt (p + 8), w5 := s.wordAt (p + 10) }

/-- A descriptor at `p` can be fetched and completed: its six words can be accessed. -/
def descReady (cfg : Config) (p : Addr) : Bool :=
  wordReady cfg p && wordReady cfg (p + 2) && wordReady cfg (p + 4)
    && wordReady cfg (p + 6) && wordReady cfg (p + 8) && wordReady cfg (p + 10)

/-- The offsets of the words of the init block (rule R96). -/
def initWords (l : TurboLayout) : List Nat :=
  [l.ibFlags, l.ibOpts, l.ibVector, l.ibTimeout, l.ibRxRing, l.ibRxRingHi, l.ibTxRing, l.ibTxRingHi]


/-- The init block at `p` can be read whole (rule R133). -/
def initReady (cfg : Config) (p : Addr) : Bool :=
  (initWords cfg.layout).all (fun o => wordReady cfg (offsetAddr p o))
    && bytesBacked cfg (offsetAddr p cfg.layout.ibPhys) 6
    && bytesBacked cfg (offsetAddr p cfg.layout.ibHash) 8
    && bytesBacked cfg (offsetAddr p cfg.layout.ibPassword) cfg.layout.passwordBytes

/-- What the init block in memory at `p` holds (rules R96, R133). -/
def State.initAt (s : State) (p : Addr) : InitRead :=
  let l := s.cfg.layout
  { block :=
      { flags := s.wordAt (offsetAddr p l.ibFlags)
        phys := macOf (s.bytesAt (offsetAddr p l.ibPhys) 6)
        hash := s.bytesAt (offsetAddr p l.ibHash) 8
        opts := s.wordAt (offsetAddr p l.ibOpts)
        vector := s.wordAt (offsetAddr p l.ibVector)
        timeout := s.wordAt (offsetAddr p l.ibTimeout)
        password := s.bytesAt (offsetAddr p l.ibPassword) l.passwordBytes }
    rxRing := splitAddr l.rxRingHiLo (s.wordAt (offsetAddr p l.ibRxRingHi)) (s.wordAt (offsetAddr p l.ibRxRing))
    txRing := splitAddr l.txRingHiLo (s.wordAt (offsetAddr p l.ibTxRingHi)) (s.wordAt (offsetAddr p l.ibTxRing)) }

/-- The word of a ring slot at a byte offset. -/
def State.slotWord (s : State) (p : Addr) (offset : Nat) : Word := s.wordAt (offsetAddr p offset)

/-- The address field of a ring slot at `p` (rule R95). -/
def State.slotBuffer (s : State) (p : Addr) : Addr :=
  splitAddr s.cfg.layout.slotAddrHiLo (s.slotWord p s.cfg.layout.slotAddrHi) (s.slotWord p s.cfg.layout.slotAddrLo)

/-- The five words of a slot can be accessed. -/
def slotReady (cfg : Config) (p : Addr) : Bool :=
  [cfg.layout.slotAddrLo, cfg.layout.slotAddrHi, cfg.layout.slotLenFlags, cfg.layout.slotStatus,
    cfg.layout.slotOwner].all fun o => wordReady cfg (offsetAddr p o)

/-- No write of the driver lands inside a walk (rule R69): what a register-window write always finds, and what a transport
event finds when the driver writes nothing meanwhile. -/
abbrev State.Quiet (s : State) : Prop := s.concurrent = []

/-! ### Walks in claims -/

/-- The bytes of an item that go into a buffer of `len` bytes (rule R148). -/
def nextBytes (q : Item) (len : Nat) : List Byte := (q.bytes.drop q.offset).take len

/-- They are the item's last (rule R89). -/
def endsItem (q : Item) (len : Nat) : Bool := decide (q.offset + (nextBytes q len).length = q.bytes.length)

/-- What is left of the queue `[q]` after that. -/
def restOf (q : Item) (len : Nat) : List Item :=
  if endsItem q len then [] else [{ q with offset := q.offset + (nextBytes q len).length }]

/-- Guest memory after a segment of item `q` is delivered into the descriptor at `p`, and the one after it fetched: the
bytes, then the status words of rule R89 in their order (rules R66, R148 to R150). -/
def State.delivered (p : Addr) (q : Item) (lost : Bool) (s : State) : State :=
  let s0 := s.fetched p
  let w := s0.descAt p
  let rbl := BitVec.ofNat 16 (q.bytes.length - 60)
  ((State.wroteBytes (descStart w) (nextBytes q (descLen w)) s0).wrotePair p
    ((if endsItem q (descLen w) then 0 else 0xC000) ||| (if q.kind = .setupResponse then 0x2000 else 0)
      ||| (rbl &&& 0x0700) ||| (if lost then 1 else 0))
    (rbl <<< 8 ||| (rbl &&& 0x00FF))).fetched (p + 12)

/-- The descriptor at `p` takes a segment of item `q`, and the one after it, as delivery leaves it, ends the list. -/
def State.takes (p : Addr) (q : Item) (lost : Bool) (s : State) : Bool :=
  let w := (s.fetched p).descAt p
  descReady s.cfg p && descReady s.cfg (p + 12) && descValid w && !descChain w
    && bytesBacked s.cfg (descStart w) (nextBytes q (descLen w)).length
    && !descValid ((s.delivered p q lost).descAt (p + 12))

/-- Guest memory and the transmit buffer after `n` descriptors from `p` up, none of which ends a message: each is fetched,
its bytes appended, and its more-data status written (rules R90, R140, R152, R153). -/
def State.gathered : State → Nat → Addr → List Byte → State × List Byte
  | s, 0, _, buf => (s, buf)
  | s, n + 1, p, buf =>
    let s0 := s.fetched p
    let w := s0.descAt p
    State.gathered (s0.wrotePair p 0xC000 0x0000) n (p + 12)
      (keepUpTo s.cfg.txbufMax buf (s0.bytesAt (descStart w) (descLen w)))

/-- The descriptor a walk finds at `p` after `k` descriptors of the list at `b`. -/
def State.descAfter (s : State) (b : Addr) (k : Nat) : Desc :=
  let p := b + BitVec.ofNat 22 (12 * k)
  ((s.gathered k b []).1.fetched p).descAt p

/-! ### Results in claims -/

/-- The state with an instance's state replaced, its request `p`, and the coordinator agreeing (rule R193). -/
def State.withRequest (s : State) (i : Inst) (c : Ctl) (p : Bool) : State :=
  (s.setCtl i { c with pending := p }).setCoord (p.toNat + (s.ctl i.other).pending.toNat)
    (p || (s.ctl i.other).pending)

/-- The request of a classic instance after a CSR change, from the bits that rule R197 names. -/
def requestAfter (old new : Word) (p : Bool) : Bool :=
  if new.getLsbD 6 && ((!old.getLsbD 7 && new.getLsbD 7) || (!old.getLsbD 15 && new.getLsbD 15)
      || (!old.getLsbD 6 && (new.getLsbD 7 || new.getLsbD 15))) then true
  else if !new.getLsbD 6 then false
  else if !new.getLsbD 7 && !new.getLsbD 15 then false
  else p

/-- The state after the system-ID half of a tick (rule R186). -/
def sysidAfter (i : Inst) (s : State) : State :=
  let c := s.ctl i
  if c.timers.sysidCount - 1 = 0 then
    if (s.unit i).attached then
      (s.setCtl i { c with timers :=
        { c.timers with sysidCount := s.cfg.sysidPeriod, sysidReceipt := c.timers.sysidReceipt + 1 } }).addEvent
        (.sysid i (s.unit i).mac c.timers.sysidReceipt)
    else s.setCtl i { c with timers := { c.timers with sysidCount := s.cfg.sysidPeriod } }
  else s.setCtl i { c with timers := { c.timers with sysidCount := c.timers.sysidCount - 1 } }

/-- The sanity timer after a reload in turbo mode with a timeout in seconds (rules R137, R209). -/
def turboReload (timeout : Word) (t : Timers) : Timers :=
  if 0 < timeout.toNat then { t with sanCount := 4 * timeout.toNat, sanArmed := true }
  else { t with sanArmed := false }

/-- The sanity timer after a reload in a classic mode (rules R128, R209). -/
def classicReload (csr : Word) (sel : BitVec 3) (t : Timers) : Timers :=
  if csr.getLsbD 10 then { t with sanCount := sanityQ sel, sanArmed := true } else t

/-! ### Legal states -/

/-- The mode is one the type allows, agrees with VAR.MS in a classic mode, and TA says turbo (rules R19, R34, R41). -/
abbrev ModeOk (u : UnitConfig) (c : Ctl) : Prop :=
  (u.type = .legacy → c.mode = .legacy)
    ∧ (u.type = .compatible → c.mode ≠ .turbo)
    ∧ (c.mode ≠ .turbo → (c.mode = .compatible ↔ c.classic.var.getLsbD Var.MS = true))
    ∧ (c.turbo.srr.ta = true ↔ c.mode = .turbo)

/-- The computed CSR bits are not stored; VAR's reserved bit is 0, its option switch is the configured one, and a legacy
type keeps MS, RS, ST and ID at 0; at most 14 filter addresses (rules R21, R33, R47). -/
abbrev RegistersOk (u : UnitConfig) (c : Ctl) : Prop :=
  c.classic.csr &&& Csr.computedMask = 0
    ∧ c.classic.var.getLsbD 1 = false
    ∧ c.classic.var.getLsbD Var.OS = u.optionSwitch
    ∧ (u.type = .legacy → c.classic.var &&& 0xBC01 = 0)
    ∧ c.setup.filters.length ≤ 14

/-- The subscription is RE in a classic mode and the started rings in turbo mode (rule R40). -/
abbrev SubscriptionOk (c : Ctl) : Prop :=
  c.rxSubscribed = if c.mode = .turbo then c.turbo.ringsStarted else c.classic.csr.getLsbD Csr.RE

/-- A classic request is enabled and has a completion behind it; a turbo request stands exactly while the latch is set and
enabled (rules R197, R198). -/
abbrev RequestOk (c : Ctl) : Prop :=
  if c.mode = .turbo then c.pending = (c.turbo.icrEn && c.turbo.tlatch)
  else c.pending = true →
    c.classic.csr.getLsbD Csr.IE = true
      ∧ (c.classic.csr.getLsbD Csr.XI = true ∨ c.classic.csr.getLsbD Csr.RI = true)

/-- The transmit buffer is within its capacity, and a message with the transport is of this generation and completes at
the walk's position (rules R39, R158, R171). -/
abbrev TransmitOk (cfg : Config) (c : Ctl) : Prop :=
  c.tx.txbuf.length ≤ cfg.txbufMax
    ∧ ∀ p ∈ c.tx.txpend, p.gen = c.tx.gen
      ∧ p.addr = if c.mode = .turbo then slotAddr cfg.layout c.turbo.txRingBase c.turbo.txIdx else c.classic.xptr

/-- The ring indices are inside their rings (rule R44). -/
abbrev RingsOk (cfg : Config) (c : Ctl) : Prop := c.turbo.rxIdx < cfg.rxRingN ∧ c.turbo.txIdx < cfg.txRingN

/-- The Read Queue is within its capacity, and every item has a legal length and bytes left to deliver (rules R48,
R151). -/
abbrev QueueOk (cfg : Config) (c : Ctl) : Prop :=
  c.queue.readq.length ≤ cfg.readqCap
    ∧ ∀ q ∈ c.queue.readq, ethMin ≤ q.bytes.length ∧ q.bytes.length ≤ ethMax ∧ q.offset < q.bytes.length

/-- An armed sanity timer has ticks left, and neither counter leaves its range (rule R212). -/
abbrev TimersOk (cfg : Config) (c : Ctl) : Prop :=
  c.timers.sanCount ≤ 4 * 65535
    ∧ (c.timers.sanArmed = true → 0 < c.timers.sanCount)
    ∧ 0 < c.timers.sysidCount ∧ c.timers.sysidCount ≤ cfg.sysidPeriod

/-- Guest memory is in its canonical form, and every byte it lists is one that `GMEM` reaches (rules R55, R65). -/
abbrev State.MemoryOk (s : State) : Prop := Memory.wf s.mem = true ∧ ∀ c ∈ s.mem, mapped s.cfg c.1 = true

/-- Both instances' modes are legal. -/
abbrev State.ModesOk (s : State) : Prop := ModeOk s.cfg.unit0 s.i0 ∧ ModeOk s.cfg.unit1 s.i1

/-- Both instances' registers are legal. -/
abbrev State.RegistersOk (s : State) : Prop :=
  Machine.RegistersOk s.cfg.unit0 s.i0 ∧ Machine.RegistersOk s.cfg.unit1 s.i1

/-- Both instances' subscriptions are legal. -/
abbrev State.SubscriptionsOk (s : State) : Prop := SubscriptionOk s.i0 ∧ SubscriptionOk s.i1

/-- Both instances' interrupt requests are legal. -/
abbrev State.RequestsOk (s : State) : Prop := RequestOk s.i0 ∧ RequestOk s.i1

/-- Both instances' transmit states are legal. -/
abbrev State.TransmitsOk (s : State) : Prop := TransmitOk s.cfg s.i0 ∧ TransmitOk s.cfg s.i1

/-- Both instances' ring indices are legal. -/
abbrev State.RingsOk (s : State) : Prop := Machine.RingsOk s.cfg s.i0 ∧ Machine.RingsOk s.cfg s.i1

/-- Both instances' Read Queues are legal. -/
abbrev State.QueuesOk (s : State) : Prop := QueueOk s.cfg s.i0 ∧ QueueOk s.cfg s.i1

/-- Both instances' timers are legal. -/
abbrev State.TimersOk (s : State) : Prop := Machine.TimersOk s.cfg s.i0 ∧ Machine.TimersOk s.cfg s.i1

end Sys2Proof.Machine
end

