-- ==== Sys2Proof/Certificates/Slice0/Obligations.lean ====
section
/-! DEFINITION. The statements for the provers. Each docstring names the rules of spec/ it comes from, and, where it rests on
a choice of the model, the entry of notes/assumptions that says so. -/

section

open Sys2Proof Sys2Proof.Machine

/-! ### Encoding and the step -/

/-- Decoding the record of a well-formed operation gives it back, with every operand (rules R76 to R78; the record is the
model's, log 1). -/
def Obligations.DecodeEncode : Prop :=
  ∀ i : Instr, i.wellFormed = true → decode (encode i) = .ok i

/-- A record that decodes is the record of what it decodes to; only a completion's tag can be written in more bytes than
it needs, its value kept (log 1). -/
def Obligations.EncodeDecode : Prop :=
  ∀ (r : List Byte) (i : Instr), decode r = .ok i →
    i.wellFormed = true
      ∧ (r = encode i
        ∨ ∃ u status tag, i = .txdone u status (natOfBytes tag)
            ∧ r = 0x33 :: instByte u :: statusByte status :: tag)

/-- Five records written out from the codes of rules R76 and R77. -/
def Obligations.DecodedWords : Prop :=
  decode [0x07, 0x00] = .ok (.lRdCsr .i0)
    ∧ decode [0x1B, 0x01, 0x34, 0x12] = .ok (.cWrRbdlHi .i1 0x1234)
    ∧ decode [0x2F, 0x00, 0x00, 0x80] = .ok (.tWrArqr .i0 0x8000)
    ∧ decode [0x33, 0x01, 0x01, 0x03] = .ok (.txdone .i1 .fail 3)
    ∧ decode [0x40] = .error .badCode

/-- A bus access to a register window: a word access at an even slot address runs the operation of the instance's mode, a
byte access and an access at an odd offset are refused (rule R61). -/
def Obligations.BusAccess : Prop :=
  ∀ (s : State) (i : Inst) (slot : Fin 8) (d : Word) (b : Bool) (rest : List Input),
    s.fault = none → coordinatorOk s = true → s.cfg.windowsFit = true →
    let a := slotBus s.cfg i slot
    let m := (s.ctl i).mode
    step (s.setInputs (.busRead a false :: rest)) = runInstr (readInstr m slot i) (s.setInputs rest)
      ∧ step (s.setInputs (.busWrite a d false :: rest)) = runInstr (writeInstr m slot i d) (s.setInputs rest)
      ∧ step (s.setInputs (.busRead a true :: rest)) = .next ((s.setInputs rest).addRefusal .byteAccess)
      ∧ step (s.setInputs (.busWrite a d true :: rest)) = .next ((s.setInputs rest).addRefusal .byteAccess)
      ∧ step (s.setInputs (.busRead (a + 1) b :: rest)) = .next ((s.setInputs rest).addRefusal .byteAccess)
      ∧ step (s.setInputs (.busWrite (a + 1) d b :: rest)) = .next ((s.setInputs rest).addRefusal .byteAccess)

/-- A step runs the decoded operation: when the head of the inputs comes to a record that decodes to `i`, and no instance
`i` needs is inside a step that never ends, the step is `exec i` with that input taken off, and every write of the driver
landed before a register-window write (rule R69; logs 1, 2, 16). -/
def Obligations.StepRunsDecoded : Prop :=
  ∀ (s : State) (x : Input) (rest : List Input) (r : List Byte) (i : Instr),
    s.fault = none → coordinatorOk s = true → s.inputs = x :: rest → fetchInput s x = .record r → decode r = .ok i →
    (∀ u ∈ needs (ackTarget s) i, (s.ctl u).hung = false) →
    step s = exec i (if isRegisterWrite i then landAll (s.setInputs rest) else s.setInputs rest)

/-- Where a step does not run an operation: a faulted block has stopped, a broken coordinator invariant is a fault, an
empty input list leaves the block waiting, an instance inside a step that never ends blocks what needs it, and bytes that
are no record are refused (rules R9, R53, R191; logs 1, 2, 10, 12). -/
def Obligations.StepElsewhere : Prop :=
  ∀ s : State,
    (∀ r, s.fault = some r → step s = .fault (.blockFaulted r))
      ∧ (s.fault = none → coordinatorOk s = false → step s = .next (s.setFault .invariant))
      ∧ (s.fault = none → coordinatorOk s = true → s.inputs = [] → step s = .next s)
      ∧ (∀ u i rest, s.fault = none → coordinatorOk s = true → s.inputs = .operation (encode i) :: rest →
          i.wellFormed = true → needs (ackTarget s) i = [u] → (s.ctl u).hung = true →
          step s = .fault (.instanceHung u))
      ∧ (∀ r e rest, s.fault = none → coordinatorOk s = true → s.inputs = .operation r :: rest →
          decode r = .error e → step s = .refused (.undecodable e))

/-! ### Register reads -/

/-- Reads of slots 0 to 5 in the classic modes: the station byte, in slots 0 and 1 the checksum byte while EL is 1, under
a high byte that nothing fixes; nothing else changes but the count of drawn values (rules R103, R104). -/
def Obligations.ClassicStationReads : Prop :=
  ∀ (s : State) (i : Inst) (m : Mode) (k : Fin 8), m ≠ .turbo → k.val < 6 → (s.ctl i).mode = m →
    decode [accessCode m false k.val, instByte i] = .ok (readInstr m k i)
      ∧ ∃ hi : Byte,
        exec (readInstr m k i) s
          = .next (s.nextDraw.setYield (.data (hi ++
              (if k.val < 2 ∧ (s.ctl i).classic.csr.getLsbD 9 = true then chkByte (s.unit i).mac k.val
                else macByte (s.unit i).mac k.val))))

/-- Reads of VAR and CSR in the classic modes: VAR as stored, its bit 1 reading 0 in every legal state; CSR as stored but
for PE and RR, which read 0, OK, which reads the attachment, and CA, which nothing fixes (rules R105, R106). -/
def Obligations.ClassicRegisterReads : Prop :=
  ∀ (s : State) (i : Inst) (m : Mode), m ≠ .turbo → (s.ctl i).mode = m →
    decode [accessCode m false 6, instByte i] = .ok (readInstr m 6 i)
      ∧ exec (readInstr m 6 i) s = .next (s.setYield (.data (s.ctl i).classic.var))
      ∧ (s.RegistersOk → (s.ctl i).classic.var.getLsbD 1 = false)
      ∧ decode [accessCode m false 7, instByte i] = .ok (readInstr m 7 i)
      ∧ ∃ (v : Word) (ca : Bool),
        exec (readInstr m 7 i) s = .next (s.nextDraw.setYield (.data v))
          ∧ ∀ n < 16, v.getLsbD n
              = if n = 14 then false
                else if n = 13 then ca
                else if n = 12 then (s.unit i).attached
                else if n = 11 then false
                else (s.ctl i).classic.csr.getLsbD n

/-- Reads in turbo mode: station bytes without checksum substitution in slots 0 to 5, the response register in slot 6 with
its fields at their configured places and every other bit 0, a word that nothing fixes in slot 7 (rules R115 to R117). -/
def Obligations.TurboReads : Prop :=
  ∀ (s : State) (i : Inst), (s.ctl i).mode = .turbo →
    let l := s.cfg.layout
    let r := (s.ctl i).turbo.srr
    (∀ k : Fin 8, decode [accessCode .turbo false k.val, instByte i] = .ok (readInstr .turbo k i))
      ∧ (∀ k : Fin 8, k.val < 6 → ∃ hi : Byte,
          exec (readInstr .turbo k i) s = .next (s.nextDraw.setYield (.data (hi ++ macByte (s.unit i).mac k.val))))
      ∧ (∃ v : Word, exec (.tRdSrr i) s = .next (s.setYield (.data v))
          ∧ (l.wellFormed = true → s.ModesOk → v.getLsbD l.srrTa = true)
          ∧ (l.wellFormed = true → ∀ n < 16, v.getLsbD n
              = if n = l.srrFes then r.fes
                else if n = l.srrNxm then r.nxm
                else if n = l.srrTa then r.ta
                else if n = l.srrRsp then r.rsp.getLsbD 0
                else if n = l.srrRsp + 1 then r.rsp.getLsbD 1
                else false))
      ∧ ∃ v : Word, exec (.tRdRsv i) s = .next (s.nextDraw.setYield (.data v))

/-! ### Register writes without a walk -/

/-- Writes that have no effect: classic slots 0 and 1, turbo slots 0, 1 and 5 (rules R107, R118, R98). -/
def Obligations.IgnoredWrites : Prop :=
  ∀ (s : State) (i : Inst) (m : Mode) (k : Fin 8) (d : Word),
    k.val = 0 ∨ k.val = 1 ∨ (m = .turbo ∧ k.val = 5) → (s.ctl i).mode = m →
    decode [accessCode m true k.val, instByte i, lowByte d, highByte d] = .ok (writeInstr m k i d)
      ∧ exec (writeInstr m k i d) s = .next s

/-- Writes that only latch: the low halves of the list bases, and in turbo mode both halves of the init-block base, bits
15:6 of the high half ignored (rules R108, R110, R119, R120, R81). -/
def Obligations.LatchWrites : Prop :=
  ∀ (s : State) (i : Inst) (d : Word),
    let c := s.ctl i
    (∀ m : Mode, m ≠ .turbo → c.mode = m →
      decode [accessCode m true 2, instByte i, lowByte d, highByte d] = .ok (writeInstr m 2 i d)
        ∧ exec (writeInstr m 2 i d) s = .next (s.setCtl i { c with classic := { c.classic with rbdlLo := d } })
        ∧ decode [accessCode m true 4, instByte i, lowByte d, highByte d] = .ok (writeInstr m 4 i d)
        ∧ exec (writeInstr m 4 i d) s = .next (s.setCtl i { c with classic := { c.classic with xbdlLo := d } }))
      ∧ (c.mode = .turbo →
        decode [0x2A, instByte i, lowByte d, highByte d] = .ok (.tWrIbaLo i d)
          ∧ exec (.tWrIbaLo i d) s = .next (s.setCtl i { c with turbo := { c.turbo with ibaLo := d } })
          ∧ decode [0x2B, instByte i, lowByte d, highByte d] = .ok (.tWrIbaHi i d)
          ∧ exec (.tWrIbaHi i d) s
              = .next (s.setCtl i { c with turbo :=
                  { c.turbo with iba := BitVec.ofNat 22 (d.toNat % 64 * 65536 + c.turbo.ibaLo.toNat) } }))

/-- A VAR write, bit by bit: the writable bits of the type take the data, an active self-test stays active, and the mode
follows MS on a type that has the choice (rule R112). -/
def Obligations.VarWrite : Prop :=
  ∀ (s : State) (i : Inst) (m : Mode) (d : Word), m ≠ .turbo → (s.ctl i).mode = m →
    decode [accessCode m true 6, instByte i, lowByte d, highByte d] = .ok (writeInstr m 6 i d)
      ∧ ∃ v : Word,
        exec (writeInstr m 6 i d) s
          = .next (s.setCtl i { s.ctl i with
              classic := { (s.ctl i).classic with var := v }
              mode := if (s.unit i).type = .legacy then m
                else if v.getLsbD 15 = true then .compatible else .legacy })
        ∧ ∀ n < 16, v.getLsbD n
            = if 2 ≤ n ∧ n ≤ 9 then d.getLsbD n
              else if (s.unit i).type ≠ .legacy ∧ (n = 15 ∨ n = 0) then d.getLsbD n
              else if (s.unit i).type ≠ .legacy ∧ n = 13 then
                (s.ctl i).classic.var.getLsbD 13 || d.getLsbD 13
              else (s.ctl i).classic.var.getLsbD n

/-- The end of a self-test: RS goes to 0, ST takes the result code, and nothing else changes (rule R114). -/
def Obligations.SelfTestDone : Prop :=
  ∀ (s : State) (i : Inst), (s.ctl i).classic.var.getLsbD 13 = true →
    decode [0x34, instByte i] = .ok (.stdone i)
      ∧ ∃ v : Word,
        exec (.stdone i) s
          = .next (s.setCtl i { s.ctl i with classic := { (s.ctl i).classic with var := v } })
        ∧ ∀ n < 16, v.getLsbD n
            = if n = 13 then false
              else if 10 ≤ n ∧ n ≤ 12 then
                (if (s.unit i).attached then s.cfg.stOk else s.cfg.stNolink).getLsbD (n - 10)
              else (s.ctl i).classic.var.getLsbD n

/-- A CSR write that ends no software reset. The stored bits: SE, EL, IL, IE, BD, SR and RE take the data, a written 1
clears RI and XI, a 1 in bit 7 clears NI, every other bit stays. Then the request, and the edges of SE on the sanity timer
and of RE on the subscription; and only where RE rises with a valid list and something queued, the receive walk (rules
R82, R102, R113, R197, R208). -/
def Obligations.CsrWrite : Prop :=
  ∀ (s : State) (i : Inst) (m : Mode) (d : Word), m ≠ .turbo → (s.ctl i).mode = m → coordinatorOk s = true →
    let c := s.ctl i
    let old := c.classic.csr
    (old.getLsbD 1 = false ∨ d.getLsbD 1 = true) →
    ∃ new : Word,
      (∀ n < 16, new.getLsbD n
        = if n = 10 ∨ n = 9 ∨ n = 8 ∨ n = 6 ∨ n = 3 ∨ n = 1 ∨ n = 0 then d.getLsbD n
          else if n = 15 ∨ n = 7 then old.getLsbD n && !d.getLsbD n
          else if n = 2 then old.getLsbD 2 && !d.getLsbD 7
          else old.getLsbD n)
      ∧ let t := s.withRequest i
          { c with
            classic := { c.classic with csr := new }
            rxSubscribed :=
              if old.getLsbD 0 = false ∧ new.getLsbD 0 = true then true
              else if old.getLsbD 0 = true ∧ new.getLsbD 0 = false then false
              else c.rxSubscribed
            timers :=
              if old.getLsbD 10 = false ∧ new.getLsbD 10 = true then
                { c.timers with sanCount := sanityQ c.setup.sanitySel, sanArmed := true }
              else if old.getLsbD 10 = true ∧ new.getLsbD 10 = false then { c.timers with sanArmed := false }
              else c.timers }
          (requestAfter old new c.pending)
        exec (writeInstr m 7 i d) s
          = .next (if old.getLsbD 0 = false ∧ d.getLsbD 0 = true ∧ old.getLsbD 5 = false ∧ c.queue.readq ≠ [] then
              endState (rxDispatch i) t else t)

/-- A CSR write that takes SR from 1 to 0 is a full reset, and every other bit of it is discarded. Where RE rises in the
same write with a valid list and something queued the receive walk comes first, and the reset follows if the walk does
not end the step (rules R28, R102, R218, R229; the last is log 18). -/
def Obligations.CsrResetWrite : Prop :=
  ∀ (s : State) (i : Inst) (m : Mode) (d : Word), m ≠ .turbo → (s.ctl i).mode = m → coordinatorOk s = true →
    (s.ctl i).classic.csr.getLsbD 1 = true → d.getLsbD 1 = false →
    let c := s.ctl i
    let walks := c.classic.csr.getLsbD 0 = false ∧ d.getLsbD 0 = true ∧ c.classic.csr.getLsbD 5 = false
      ∧ c.queue.readq ≠ []
    (¬walks → exec (writeInstr m 7 i d) s = .next (resetState i s))
    ∧ (walks → ∀ t,
        (rxDispatch i (csrEdges i (csrSetMask d) (csrClrMask d) s) = .ok () t →
          exec (writeInstr m 7 i d) s = .next (resetState i t))
        ∧ ∀ e, rxDispatch i (csrEdges i (csrSetMask d) (csrClrMask d) s) = .error e t →
          exec (writeInstr m 7 i d) s = .next t)

/-! ### Reset -/

/-- The full reset of an instance, value by value; the other instance, guest memory, the statistics, the configuration and
the marks stay (rule R217). -/
def Obligations.FullReset : Prop :=
  ∀ (s : State) (i : Inst), coordinatorOk s = true →
    let c := s.ctl i
    let u := s.unit i
    resetState i s
      = (s.withRequest i
          { mode := if u.type = .legacy then .legacy else .compatible
            classic :=
              { csr := 0x0030
                var := (if u.type ≠ .legacy then 0x8000 else 0) ||| (if u.optionSwitch = true then 0x4000 else 0)
                rbdlLo := 0, xbdlLo := 0, rptr := 0, xptr := 0 }
            rxSubscribed := false
            tx := { txbuf := [], txpend := none, gen := c.tx.gen + 1 }
            turbo :=
              { srr := { fes := false, nxm := false, ta := false, rsp := 0 }, icrEn := false, ibaLo := 0, iba := 0
                rxRingBase := 0, txRingBase := 0, rxIdx := 0, txIdx := 0, ringsStarted := false, tlatch := false }
            init :=
              { flags := 0, phys := ⟨0, 0, 0, 0, 0, 0⟩, hash := [0, 0, 0, 0, 0, 0, 0, 0], opts := 0, vector := 0
                timeout := 0, password := List.replicate s.cfg.layout.passwordBytes 0 }
            setup := { filters := [], allMulticast := false, promiscuous := false, led := 0, sanitySel := 0 }
            queue := { readq := [], loss := 0 }
            pending := false
            timers := { sanCount := 0, sanArmed := false, sysidCount := s.cfg.sysidPeriod, sysidReceipt := 0 }
            stats := c.stats
            hung := c.hung }
          false).addEvent (.filter i [] false false)

/-- A bus reset resets both instances and leaves no request; a power-on gives both instances their power-on values, no
request, and leaves guest memory and the marks (rules R219, R220). -/
def Obligations.BusResetAndPowerOn : Prop :=
  ∀ s : State,
    decode [0x35] = .ok .busreset
      ∧ exec .busreset s = .next (resetState .i1 (resetState .i0 s))
      ∧ (coordinatorOk s = true →
        (resetState .i1 (resetState .i0 s)).count = 0 ∧ (resetState .i1 (resetState .i0 s)).line = false)
      ∧ decode [0x36] = .ok .poweron
      ∧ exec .poweron s
          = .next { s with
              i0 := { Ctl.powerOn s.cfg s.cfg.unit0 with hung := s.i0.hung }
              i1 := { Ctl.powerOn s.cfg s.cfg.unit1 with hung := s.i1.hung }
              count := 0
              line := false
              events := s.events ++ [.filter .i0 [] false false, .filter .i1 [] false false] }

/-! ### The classic lists -/

/-- The handshake write enters turbo mode; it starts no walk and keeps the Read Queue, Setup State and statistics (rule
R161). -/
def Obligations.TurboEntry : Prop :=
  ∀ (s : State) (i : Inst), (s.unit i).type = .turbo → (s.ctl i).mode = .compatible → coordinatorOk s = true →
    (s.ctl i).classic.rbdlLo = s.cfg.handshakeLo →
    let c := s.ctl i
    exec (.cWrRbdlHi i s.cfg.handshakeHi) s
      = .next (s.withRequest i
          { c with
            mode := .turbo
            turbo :=
              { c.turbo with
                srr := { fes := false, nxm := false, ta := true, rsp := 0 }
                icrEn := false, tlatch := false, ringsStarted := false, ibaLo := 0, iba := 0 }
            rxSubscribed := false
            tx := { txbuf := [], txpend := none, gen := c.tx.gen + 1 }
            timers := { c.timers with sanArmed := false } }
          false)

/-- A write of RBDL_HI that is no handshake sets the receive pointer, makes the list valid and runs the receive walk. At
an invalid descriptor the walk ends with RL set again; at a valid one that is no chain, with nothing queued, it waits with
RL clear. Nothing else changes but the flag word, where the configuration writes it (rules R80, R109, R140, R141, R147). -/
def Obligations.ReceiveListWrite : Prop :=
  ∀ (s : State) (i : Inst) (m : Mode) (d : Word), m ≠ .turbo → (s.ctl i).mode = m → RequestOk (s.ctl i) →
    ¬((s.unit i).type = .turbo ∧ m = .compatible ∧ (s.ctl i).classic.rbdlLo = s.cfg.handshakeLo
      ∧ d = s.cfg.handshakeHi) →
    let c := s.ctl i
    let b := addrOf d c.classic.rbdlLo
    let s0 := s.fetched b
    let valid := { c with classic := { c.classic with rptr := b, csr := c.classic.csr &&& ~~~0x0020 } }
    exec (writeInstr m 3 i d) s = .next (endState (rxDispatch i) (s.setCtl i valid))
    ∧ (s.Quiet → s.cfg.chainCap ≠ some 0 → descReady s.cfg b = true →
      (descValid (s0.descAt b) = false →
        exec (writeInstr m 3 i d) s
          = .next (s0.setCtl i { c with classic := { c.classic with rptr := b, csr := c.classic.csr ||| 0x0020 } }))
      ∧ (descValid (s0.descAt b) = true → descChain (s0.descAt b) = false → c.queue.readq = [] →
        exec (writeInstr m 3 i d) s = .next (s0.setCtl i valid)))

/-- A list base at an odd address is refused at the first descriptor fetch: the pointer is set and the list marked valid,
and then the step has no further effect (rule R59; which of the write's effects come before the refusal is log 18). -/
def Obligations.OddListRefused : Prop :=
  ∀ (s : State) (i : Inst) (m : Mode) (d : Word), m ≠ .turbo → (s.ctl i).mode = m → RequestOk (s.ctl i) →
    s.cfg.chainCap ≠ some 0 →
    let c := s.ctl i
    (c.classic.rbdlLo.getLsbD 0 = true →
      ¬((s.unit i).type = .turbo ∧ m = .compatible ∧ c.classic.rbdlLo = s.cfg.handshakeLo
        ∧ d = s.cfg.handshakeHi) →
      exec (writeInstr m 3 i d) s
        = .next ((s.setCtl i { c with classic :=
            { c.classic with rptr := addrOf d c.classic.rbdlLo, csr := c.classic.csr &&& ~~~0x0020 } }).addRefusal
              .oddAddress))
    ∧ (c.classic.xbdlLo.getLsbD 0 = true → c.tx.txpend = none →
      exec (writeInstr m 5 i d) s
        = .next ((s.setCtl i { c with classic :=
            { c.classic with xptr := addrOf d c.classic.xbdlLo, csr := c.classic.csr &&& ~~~0x0010 } }).addRefusal
              .oddAddress))

/-- A write of XBDL_HI with no message at the transport sets the transmit pointer, makes the list valid and runs the
transmit walk; at an invalid descriptor the walk ends with XL set again (rules R80, R111, R140, R141, R152). -/
def Obligations.TransmitListWrite : Prop :=
  ∀ (s : State) (i : Inst) (m : Mode) (d : Word), m ≠ .turbo → (s.ctl i).mode = m → RequestOk (s.ctl i) →
    (s.ctl i).tx.txpend = none →
    let c := s.ctl i
    let b := addrOf d c.classic.xbdlLo
    let s0 := s.fetched b
    exec (writeInstr m 5 i d) s
        = .next (endState (txDispatch i)
            (s.setCtl i { c with classic := { c.classic with xptr := b, csr := c.classic.csr &&& ~~~0x0010 } }))
    ∧ (s.Quiet → s.cfg.chainCap ≠ some 0 → descReady s.cfg b = true → descValid (s0.descAt b) = false →
      exec (writeInstr m 5 i d) s
        = .next (s0.setCtl i { c with classic := { c.classic with xptr := b, csr := c.classic.csr ||| 0x0010 } }))

/-- A write of XBDL_HI whose first descriptor ends a message, whose bytes are those gathered so far and the descriptor's
own. A setup packet is processed and queued as its own response, a looped-back frame is queued if the filter accepts it,
a message with no transport fails at once; each of these is completed here with the list ending after it and no receive
walk possible. Any other message is handed to the transport with the reset generation as the tag, and waits with XL clear
and no status written (rules R111, R131, R132, R152 to R156, R182). -/
def Obligations.MessageEnd : Prop :=
  ∀ (s : State) (i : Inst) (m : Mode) (d : Word), m ≠ .turbo → (s.ctl i).mode = m → RequestOk (s.ctl i) →
    coordinatorOk s = true → s.Quiet → s.cfg.chainCap ≠ some 0 → (s.ctl i).tx.txpend = none →
    let c := s.ctl i
    let b := addrOf d c.classic.xbdlLo
    let s0 := s.fetched b
    let w := s0.descAt b
    let f := c.tx.txbuf ++ (s0.bytesAt (descStart w) (descLen w)).take (s.cfg.txbufMax - c.tx.txbuf.length)
    let s1 := s0.setCtl i { c with
      classic := { c.classic with xptr := b, csr := c.classic.csr &&& ~~~0x0010 }, tx := { c.tx with txbuf := [] } }
    let looped : Bool := !c.classic.csr.getLsbD 0 && (!c.classic.csr.getLsbD 8 || c.classic.csr.getLsbD 9)
    let accepted := c.setup.promiscuous = true ∨ macOf f ∈ c.setup.filters
      ∨ (f.getD 0 0).getLsbD 0 = true ∧ c.setup.allMulticast = true
    let new := c.classic.csr ||| 0x0090
    let completed : Word → Word → TxStatus → State → State := fun sw1 sw2 status t =>
      let k := t.ctl i
      ((t.wrotePair b sw1 sw2).fetched (b + 12)).withRequest i
        { k with
          classic := { k.classic with csr := new, xptr := b + 12 }
          timers := if status = .ok then classicReload c.classic.csr k.setup.sanitySel k.timers else k.timers
          stats :=
            { k.stats with
              tx := k.stats.tx + (if status = .ok then 1 else 0)
              txfail := k.stats.txfail + (if status = .fail then 1 else 0) } }
        (requestAfter c.classic.csr new c.pending)
    let ends : State → Prop := fun t => descValid (t.descAt (b + 12)) = false
    descReady s.cfg b = true → descValid w = true → descChain w = false → descEom w = true →
    bytesBacked s.cfg (descStart w) (descLen w) = true →
    (descSetup w = false → looped = false → (s.unit i).attached = true →
      exec (writeInstr m 5 i d) s
        = .next ((s0.setCtl i { c with
            classic := { c.classic with xptr := b, csr := c.classic.csr &&& ~~~0x0010 }
            tx := { c.tx with txbuf := [], txpend := some { addr := b, gen := c.tx.gen } } }).addEvent
              (.write i f c.tx.gen)))
    ∧ (c.classic.csr.getLsbD 5 = true → descReady s.cfg (b + 12) = true → s.cfg.chainCap ≠ some 1 →
      (descSetup w = true →
        let t := completed s.cfg.txOkSw1 s.cfg.txOkSw2 .ok
          (onCtl i (rqInsertCtl s.cfg.readqCap .setupResponse f) (endState (setupProcess i f) s1))
        ends t → exec (writeInstr m 5 i d) s = .next t)
      ∧ (descSetup w = false → looped = true →
        let t := completed s.cfg.txOkSw1 s.cfg.txOkSw2 .ok
          (if accepted then onCtl i (rqInsertCtl s.cfg.readqCap .loopback f) s1 else s1)
        ends t → exec (writeInstr m 5 i d) s = .next t)
      ∧ (descSetup w = false → looped = false → (s.unit i).attached = false →
        ∃ v : Word, v ≠ 0 ∧ v.toNat < 2 ^ 14
          ∧ let t := completed s.cfg.txFailSw1 v .fail s1.nextDraw
            ends t → exec (writeInstr m 5 i d) s = .next t))

/-- Rewriting the transmit list, or a START, while a message is with the transport is a fault: the mark is set, nothing
else happens, and the block makes no further step (rules R111, R165, R191, R225; log 10). -/
def Obligations.FaultWhileSending : Prop :=
  ∀ (s : State) (i : Inst) (d : Word), (s.ctl i).tx.txpend.isSome = true →
    (∀ m : Mode, m ≠ .turbo → (s.ctl i).mode = m →
      exec (writeInstr m 5 i d) s = .next (s.setFault .bdlRewriteWhileSending))
    ∧ ((s.ctl i).mode = .turbo → d.getLsbD s.cfg.layout.srqStart = true →
      exec (.tWrSrqr i d) s = .next (s.setFault .startWhileSending))
    ∧ ∀ r, step (s.setFault r) = .fault (.blockFaulted r)

/-- A completion that is not for the message with the transport, of this generation, is ignored (rule R183). -/
def Obligations.CompletionStale : Prop :=
  ∀ (s : State) (i : Inst) (status : TxStatus) (tag : Nat),
    (∀ p, (s.ctl i).tx.txpend = some p → tag ≠ p.gen ∨ p.gen ≠ (s.ctl i).tx.gen) →
    exec (.txdone i status tag) s = .next s

/-- A transport completion in a classic mode, when the transmit list ends after the message (or is marked invalid), no
receive walk can run and no driver write lands meanwhile: the status pair is written, second word first, the transmit is
idle and counted, XI is set with its request, a success reloads the sanity timer, and XL ends set (rules R155, R183,
R209). -/
def Obligations.CompletionClassic : Prop :=
  ∀ (s : State) (i : Inst) (p : TxPend), (s.ctl i).mode ≠ .turbo → coordinatorOk s = true → s.Quiet →
    (s.ctl i).tx.txpend = some p → p.gen = (s.ctl i).tx.gen → (s.ctl i).classic.csr.getLsbD 5 = true →
    let c := s.ctl i
    let x := c.classic.xptr
    let new := c.classic.csr ||| 0x0090
    wordReady s.cfg (x + 8) = true → wordReady s.cfg (x + 10) = true →
    (c.classic.csr.getLsbD 4 = true ∨ s.cfg.chainCap ≠ some 0 ∧ descReady s.cfg (x + 12) = true) →
    let next : State → State := fun u => if c.classic.csr.getLsbD 4 = true then u else u.fetched (x + 12)
    let ends : State → Prop := fun u => c.classic.csr.getLsbD 4 = true ∨ descValid (u.descAt (x + 12)) = false
    let t := next (s.wrotePair x s.cfg.txOkSw1 s.cfg.txOkSw2)
    (ends t →
      exec (.txdone i .ok p.gen) s
        = .next (t.withRequest i
            { c with
              classic := { c.classic with csr := new, xptr := x + 12 }
              tx := { c.tx with txpend := none }
              timers := classicReload c.classic.csr c.setup.sanitySel c.timers
              stats := { c.stats with tx := c.stats.tx + 1 } }
            (requestAfter c.classic.csr new c.pending)))
      ∧ ∃ v : Word, v ≠ 0 ∧ v.toNat < 2 ^ 14
        ∧ let t := next (s.nextDraw.wrotePair x s.cfg.txFailSw1 v)
          ends t →
          exec (.txdone i .fail p.gen) s
            = .next (t.withRequest i
                { c with
                  classic := { c.classic with csr := new, xptr := x + 12 }
                  tx := { c.tx with txpend := none }
                  stats := { c.stats with txfail := c.stats.txfail + 1 } }
                (requestAfter c.classic.csr new c.pending))

/-- A frame delivered while the instance cannot take it waits in the Read Queue, and nothing else happens: with RL set in a
classic mode, with the next receive slot not the device's in turbo mode (rule R179). -/
def Obligations.FrameQueued : Prop :=
  ∀ (s : State) (i : Inst) (f : List Byte), (s.unit i).attached = true → (s.ctl i).rxSubscribed = true →
    let c := s.ctl i
    let p := slotAddr s.cfg.layout c.turbo.rxRingBase c.turbo.rxIdx
    (c.mode ≠ .turbo → c.classic.csr.getLsbD 5 = true →
      exec (.rxf i f) s = .next (s.setCtl i (rqInsertCtl s.cfg.readqCap .normal f c)))
    ∧ (c.mode = .turbo → s.Quiet → wordReady s.cfg (offsetAddr p s.cfg.layout.slotOwner) = true →
      slotOwned s.cfg.layout (s.slotWord p s.cfg.layout.slotOwner) = false →
      exec (.rxf i f) s = .next (s.setCtl i (rqInsertCtl s.cfg.readqCap .normal f c)))

/-- The one item of the queue delivered into a descriptor, the list ending after that: a frame as it arrives, or an item of
any type, delivered in part or not at all before, at a write of the list base. The bytes that fit are written in order,
then the second status word, a barrier and the first, whose code says whether the item ends here; RI is set with its
request, a pending loss report is taken, the item leaves the queue or stays at its head with its offset moved on, and the
walk ends with RL set (rules R66, R89, R109, R147 to R150, R174). -/
def Obligations.ItemDelivered : Prop :=
  ∀ (s : State) (i : Inst) (p : Addr) (q : Item), (s.ctl i).mode ≠ .turbo → coordinatorOk s = true → s.Quiet →
    s.cfg.chainCap ≠ some 0 → s.cfg.chainCap ≠ some 1 →
    let c := s.ctl i
    let lost := decide (0 < c.queue.loss)
    let len := descLen ((s.fetched p).descAt p)
    let new := c.classic.csr ||| 0x8020
    let t : Stats → State := fun st => (s.delivered p q lost).withRequest i
      { c with
        classic := { c.classic with csr := new, rptr := p + 12 }
        queue := { readq := restOf q len, loss := 0 }
        stats := { st with rx := st.rx + (if endsItem q len then 1 else 0) } }
      (requestAfter c.classic.csr new c.pending)
    s.takes p q lost = true →
    (∀ f, (s.unit i).attached = true → c.rxSubscribed = true → c.classic.csr.getLsbD 5 = false → c.queue.readq = [] →
      1 ≤ s.cfg.readqCap → p = c.classic.rptr → q = { kind := .normal, bytes := normalise f, offset := 0 } →
      exec (.rxf i f) s = .next (t (normaliseStats f c.stats)))
    ∧ ∀ m d, c.mode = m → RequestOk c → c.queue.readq = [q] → p = addrOf d c.classic.rbdlLo →
      ¬((s.unit i).type = .turbo ∧ m = .compatible ∧ c.classic.rbdlLo = s.cfg.handshakeLo ∧ d = s.cfg.handshakeHi) →
      exec (writeInstr m 3 i d) s = .next (t c.stats)

/-- A chain descriptor leads a walk to its address and nothing is written to it: a receive walk and a transmit walk whose
chain leads to an invalid descriptor end there, with RL or XL set. One that names itself, in a configuration that does not
write the flag word, never ends: without a bound the instance hangs, the pointer and RL as the write left them; with a
bound it is an NXM (rules R9, R141, R142, R144; the hung state is log 12). -/
def Obligations.ChainDescriptors : Prop :=
  ∀ (s : State) (i : Inst) (m : Mode) (d : Word), m ≠ .turbo → (s.ctl i).mode = m → RequestOk (s.ctl i) → s.Quiet →
    let c := s.ctl i
    let chainAt : Addr → Prop := fun b => descReady s.cfg b = true
      ∧ descValid ((s.fetched b).descAt b) = true ∧ descChain ((s.fetched b).descAt b) = true
    let linked : Addr → Addr := fun b => descAddr ((s.fetched b).descAt b)
    let s2 : Addr → State := fun b => (s.fetched b).fetched (linked b)
    let leads : Addr → Prop := fun b => chainAt b ∧ descReady s.cfg (linked b) = true
      ∧ descValid ((s2 b).descAt (linked b)) = false ∧ s.cfg.chainCap ≠ some 0 ∧ s.cfg.chainCap ≠ some 1
    let b := addrOf d c.classic.rbdlLo
    let c1 := { c with classic := { c.classic with rptr := b, csr := c.classic.csr &&& ~~~0x0020 } }
    (¬((s.unit i).type = .turbo ∧ m = .compatible ∧ c.classic.rbdlLo = s.cfg.handshakeLo ∧ d = s.cfg.handshakeHi) →
      (leads b →
        exec (writeInstr m 3 i d) s
          = .next ((s2 b).setCtl i { c with
              classic := { c.classic with rptr := linked b, csr := c.classic.csr ||| 0x0020 } }))
      ∧ (chainAt b → linked b = b → s.cfg.writeFlagWord = false →
        (s.cfg.chainCap = none → exec (writeInstr m 3 i d) s = .next (s.setCtl i { c1 with hung := true }))
        ∧ ∀ n, s.cfg.chainCap = some n → exec (writeInstr m 3 i d) s = .next (nxmClassic i (s.setCtl i c1))))
    ∧ (c.tx.txpend = none →
      let b := addrOf d c.classic.xbdlLo
      leads b →
      exec (writeInstr m 5 i d) s
        = .next ((s2 b).setCtl i { c with
            classic := { c.classic with xptr := linked b, csr := c.classic.csr ||| 0x0010 } }))

/-- A transmit walk over N descriptors of a message that does not end, followed by an invalid one, visits exactly those N
in address order: it appends their bytes to the message, up to its capacity, completes each with the more-data status,
second word first, and sets XL at the one after them without error. The next state is given whole; that its writes are
those, in that order, and that no other byte of guest memory changes, is said beside it (rules R90, R140, R143, R152, R153,
R159). -/
def Obligations.TransmitWalk : Prop :=
  ∀ (s : State) (i : Inst) (m : Mode) (d : Word) (n : Nat), m ≠ .turbo → (s.ctl i).mode = m → RequestOk (s.ctl i) →
    s.Quiet → (∀ cap, s.cfg.chainCap = some cap → n < cap) → (s.ctl i).tx.txpend = none →
    Memory.wf s.mem = true → 12 * (n + 1) ≤ 2 ^ 22 →
    let c := s.ctl i
    let b := addrOf d c.classic.xbdlLo
    let at' : Nat → Addr := fun k => b + BitVec.ofNat 22 (12 * k)
    let at? := fun a => locate s.cfg a
    let flag : Nat → List MemEvent := fun k => if s.cfg.writeFlagWord then [.word (at' k) 0xFFFF] else []
    (∀ k ≤ n, descReady s.cfg (at' k) = true) →
    (∀ k < n, let w := s.descAfter b k
      descValid w = true ∧ descChain w = false ∧ descEom w = false
        ∧ bytesBacked s.cfg (descStart w) (descLen w) = true) →
    descValid (s.descAfter b n) = false →
    let g := s.gathered n b c.tx.txbuf
    let t := g.1.fetched (at' n)
    exec (writeInstr m 5 i d) s
        = .next (t.setCtl i { c with
            classic := { c.classic with xptr := at' n, csr := c.classic.csr ||| 0x0010 }
            tx := { c.tx with txbuf := g.2 } })
      ∧ t.trace = s.trace ++ (List.range n).flatMap (fun k =>
          flag k ++ [MemEvent.word (at' k + 10) 0x0000, MemEvent.barrier, MemEvent.word (at' k + 8) 0xC000]) ++ flag n
      ∧ (∀ a : Addr, (∀ k < n, ∀ o ∈ [8, 9, 10, 11], at? a ≠ at? (at' k + o)) →
          (s.cfg.writeFlagWord = true → ∀ k ≤ n, at? a ≠ at? (at' k) ∧ at? a ≠ at? (at' k + 1)) →
          t.byteAt a = s.byteAt a)
      ∧ ((∀ x y : Addr, backed s.cfg x = true → at? x = at? y → x = y) →
          ∀ k < n, t.wordAt (at' k + 10) = 0x0000 ∧ t.wordAt (at' k + 8) = 0xC000)
      ∧ t = { s with mem := t.mem, trace := t.trace }

/-! ### Turbo mode -/

/-- A write of ICR: the enable takes its bit, and the request stands exactly while it is enabled and the latch is set; the
latch is kept (rules R121, R198). -/
def Obligations.IcrWrite : Prop :=
  ∀ (s : State) (i : Inst) (d : Word), (s.ctl i).mode = .turbo → coordinatorOk s = true →
    let c := s.ctl i
    let en := d.getLsbD s.cfg.layout.icrEn
    decode [0x2C, instByte i, lowByte d, highByte d] = .ok (.tWrIcr i d)
      ∧ exec (.tWrIcr i d) s
          = .next (s.withRequest i { c with turbo := { c.turbo with icrEn := en } } (en && c.turbo.tlatch))

/-- A START whose init block can be read, with nothing queued: the block's values are stored, the filter is set, both rings
start at index 0, the response is 1, the request is latched, and the sanity timer is reloaded (rules R122, R133 to R137,
R165, R209). -/
def Obligations.StartCompletes : Prop :=
  ∀ (s : State) (i : Inst) (d : Word), (s.ctl i).mode = .turbo → coordinatorOk s = true →
    d.getLsbD s.cfg.layout.srqStart = true → (s.ctl i).tx.txpend = none → (s.ctl i).queue.readq = [] → s.Quiet →
    let c := s.ctl i
    let r := s.initAt c.turbo.iba
    let prom := r.block.flags.getLsbD s.cfg.layout.prom
    initReady s.cfg c.turbo.iba = true →
    exec (.tWrSrqr i d) s
      = .next ((s.withRequest i
          { c with
            init := r.block
            turbo :=
              { c.turbo with
                rxRingBase := r.rxRing, txRingBase := r.txRing, rxIdx := 0, txIdx := 0, ringsStarted := true
                srr := { c.turbo.srr with fes := false, nxm := false, rsp := 1 }
                tlatch := true }
            setup := { c.setup with filters := [r.block.phys], allMulticast := false, promiscuous := prom }
            rxSubscribed := true
            timers := turboReload r.block.timeout c.timers }
          c.turbo.icrEn).addEvent (.filterHash i r.block.phys prom r.block.hash))

/-- A synchronous request without START has no effect; a START whose init block does not exist is NXM_T with response 2,
and stores nothing (rules R122, R133, R165, R189). -/
def Obligations.StartIgnoredOrFails : Prop :=
  ∀ (s : State) (i : Inst) (d : Word), (s.ctl i).mode = .turbo →
    let c := s.ctl i
    let p := offsetAddr c.turbo.iba s.cfg.layout.ibFlags
    (d.getLsbD s.cfg.layout.srqStart = false → exec (.tWrSrqr i d) s = .next s)
    ∧ (d.getLsbD s.cfg.layout.srqStart = true → c.tx.txpend = none → coordinatorOk s = true → s.Quiet →
      p.getLsbD 0 = false → wordBacked s.cfg p = false →
      exec (.tWrSrqr i d) s
        = .next (s.withRequest i
            { c with
              tx := { c.tx with txbuf := [] }
              turbo :=
                { c.turbo with
                  srr := { c.turbo.srr with fes := true, nxm := true, rsp := 2 }
                  ringsStarted := false, tlatch := true }
              rxSubscribed := false }
            c.turbo.icrEn))

/-- An asynchronous request: SR is a full reset whatever the other bits; before START the other bits are ignored; TRQ with
one owned slot that ends a packet hands the packet to the transport and leaves the slot the device's; TRQ and RRQ with
nothing to serve change nothing (rules R123, R169 to R171). -/
def Obligations.AsyncRequest : Prop :=
  ∀ (s : State) (i : Inst) (d : Word), (s.ctl i).mode = .turbo →
    let c := s.ctl i
    let l := s.cfg.layout
    let p := slotAddr l c.turbo.txRingBase c.turbo.txIdx
    let lf := s.slotWord p l.slotLenFlags
    let a := s.slotBuffer p
    let kept := if lf.getLsbD l.stp then [] else c.tx.txbuf
    (d.getLsbD l.arqSr = true → exec (.tWrArqr i d) s = .next (resetState i s))
    ∧ (d.getLsbD l.arqSr = false → c.turbo.ringsStarted = false → exec (.tWrArqr i d) s = .next s)
    ∧ (d.getLsbD l.arqSr = false → s.Quiet → c.queue.readq = [] → wordReady s.cfg (offsetAddr p l.slotOwner) = true →
      slotOwned l (s.slotWord p l.slotOwner) = false → exec (.tWrArqr i d) s = .next s)
    ∧ (d.getLsbD l.arqSr = false → d.getLsbD l.arqRrq = false → d.getLsbD l.arqTrq = true → s.Quiet →
      c.turbo.ringsStarted = true → c.tx.txpend = none → slotReady s.cfg p = true →
      slotOwned l (s.slotWord p l.slotOwner) = true → lf.getLsbD l.enp = true →
      bytesBacked s.cfg a (slotLen l lf) = true → (s.unit i).attached = true →
      exec (.tWrArqr i d) s
        = .next ((s.setCtl i { c with
            tx := { c.tx with txbuf := [], txpend := some { addr := p, gen := c.tx.gen } } }).addEvent
              (.write i (kept ++ (s.bytesAt a (slotLen l lf)).take (s.cfg.txbufMax - kept.length)) c.tx.gen)))

/-- A receive request with one queued item and one owned slot: the bytes of the item that fit are written in order, then
the length word with STP at the item's start and ENP at its end, the status, and after a barrier the ownership word,
returned to the driver with the end-of-ring flag of the look-ahead; the index moves on, a loss is reported, the item leaves
the queue or stays at its head with its offset moved on, and the request is latched once (rules R67, R95, R123, R167, R169,
R170). -/
def Obligations.RingDelivered : Prop :=
  ∀ (s : State) (i : Inst) (d : Word) (q : Item), (s.ctl i).mode = .turbo → coordinatorOk s = true → s.Quiet →
    d.getLsbD s.cfg.layout.arqSr = false → d.getLsbD s.cfg.layout.arqTrq = false →
    d.getLsbD s.cfg.layout.arqRrq = true → (s.ctl i).turbo.ringsStarted = true → (s.ctl i).queue.readq = [q] →
    let c := s.ctl i
    let l := s.cfg.layout
    let p := slotAddr l c.turbo.rxRingBase c.turbo.rxIdx
    let k := (c.turbo.rxIdx + 1) % s.cfg.rxRingN
    let owner := offsetAddr (slotAddr l c.turbo.rxRingBase k) l.slotOwner
    let len := slotLen l (s.slotWord p l.slotLenFlags)
    let a := s.slotBuffer p
    let bytes := nextBytes q len
    let s1 := State.wroteBytes a bytes s
    let s2 := s1.wroteWord (offsetAddr p l.slotLenFlags)
      (fieldWord l.lenLo l.lenBits len ||| bitWord l.stp (decide (q.offset = 0)) ||| bitWord l.enp (endsItem q len))
    let s3 := s2.wroteWord (offsetAddr p l.slotStatus)
      (fieldWord l.cntLo l.cntBits bytes.length ||| bitWord l.ovf (decide (0 < c.queue.loss)))
    let s4 := (s3.addTrace .barrier).wroteWord (offsetAddr p l.slotOwner)
      (bitWord l.eor (!slotOwned l (s3.wordAt owner)))
    slotReady s.cfg p = true → wordReady s.cfg owner = true → slotOwned l (s.slotWord p l.slotOwner) = true →
    bytesBacked s.cfg a bytes.length = true → (endsItem q len = true ∨ slotOwned l (s4.wordAt owner) = false) →
    exec (.tWrArqr i d) s
      = .next (s4.withRequest i
          { c with
            turbo := { c.turbo with rxIdx := k, tlatch := true }
            queue := { readq := restOf q len, loss := 0 }
            stats := { c.stats with rx := c.stats.rx + (if endsItem q len then 1 else 0) } }
          c.turbo.icrEn)

/-- A transport completion in turbo mode with the next transmit slot not the device's and no driver write meanwhile: the
slot's status is written, then after a barrier its ownership word, returned to the driver with the end-of-ring flag; the
index moves on, the message is counted, a success reloads the sanity timer, and the request is latched (rules R67, R167,
R169, R172). -/
def Obligations.CompletionTurbo : Prop :=
  ∀ (s : State) (i : Inst) (p : TxPend) (status : TxStatus), (s.ctl i).mode = .turbo → coordinatorOk s = true → s.Quiet →
    (s.ctl i).tx.txpend = some p → p.gen = (s.ctl i).tx.gen → (s.ctl i).turbo.ringsStarted = true →
    let c := s.ctl i
    let l := s.cfg.layout
    let a := slotAddr l c.turbo.txRingBase c.turbo.txIdx
    let k := (c.turbo.txIdx + 1) % s.cfg.txRingN
    let owner := offsetAddr (slotAddr l c.turbo.txRingBase k) l.slotOwner
    let s1 := s.wroteWord (offsetAddr a l.slotStatus) (bitWord l.err (decide (status = .fail)))
    let s2 := (s1.addTrace .barrier).wroteWord (offsetAddr a l.slotOwner) (bitWord l.eor true)
    wordReady s.cfg (offsetAddr a l.slotStatus) = true → wordReady s.cfg (offsetAddr a l.slotOwner) = true →
    wordReady s.cfg owner = true →
    slotOwned l (s1.wordAt owner) = false → slotOwned l (s2.wordAt owner) = false →
    exec (.txdone i status p.gen) s
      = .next (s2.withRequest i
          { c with
            tx := { c.tx with txpend := none }
            turbo := { c.turbo with txIdx := k, tlatch := true }
            timers := if status = .ok then turboReload c.init.timeout c.timers else c.timers
            stats :=
              { c.stats with
                tx := c.stats.tx + (if status = .ok then 1 else 0)
                txfail := c.stats.txfail + (if status = .fail then 1 else 0) } }
          c.turbo.icrEn)

/-! ### Events -/

/-- An interrupt acknowledge serves instance 0 before instance 1, answers the vector of its mode, withdraws its request
and in turbo mode its latch, and changes nothing else; with no request it answers none (rule R199). -/
def Obligations.Acknowledge : Prop :=
  decode [0x30] = .ok .ack
    ∧ ∀ s : State,
      let serve : Inst → State := fun i =>
        let c := s.ctl i
        ((s.setCtl i { c with
            pending := false
            turbo := { c.turbo with tlatch := if c.mode = .turbo then false else c.turbo.tlatch } }).setCoord
              (s.count - 1) (decide (0 < s.count - 1))).setYield
          (.vector (some (if c.mode = .turbo then c.init.vector &&& 0x03FC else c.classic.var &&& 0x03FC)))
      (s.i0.pending = true → exec .ack s = .next (serve .i0))
        ∧ (s.i0.pending = false → s.i1.pending = true → exec .ack s = .next (serve .i1))
        ∧ (s.i0.pending = false → s.i1.pending = false → exec .ack s = .next (s.setYield (.vector none)))

/-- A tick: an armed sanity timer counts down and expires at 0, once, as a reboot signal in a classic mode and as a full
reset in turbo mode; then the system-ID countdown runs on the state so reached (rules R186, R207, R210). -/
def Obligations.TimerTick : Prop :=
  ∀ (s : State) (i : Inst),
    let c := s.ctl i
    decode [0x31, instByte i] = .ok (.tick i)
      ∧ (c.timers.sanArmed = false → exec (.tick i) s = .next (sysidAfter i s))
      ∧ (c.timers.sanArmed = true → 2 ≤ c.timers.sanCount →
        exec (.tick i) s
          = .next (sysidAfter i (s.setCtl i { c with timers :=
              { c.timers with sanCount := c.timers.sanCount - 1 } })))
      ∧ (c.timers.sanArmed = true → c.timers.sanCount = 1 → c.mode ≠ .turbo →
        exec (.tick i) s
          = .next (sysidAfter i ((s.setCtl i { c with timers :=
              { c.timers with sanCount := 0, sanArmed := false } }).addEvent (.reboot i))))
      ∧ (c.timers.sanArmed = true → c.timers.sanCount = 1 → c.mode = .turbo →
        exec (.tick i) s = .next (sysidAfter i (resetState i s)))

/-- A reserved code is refused: the mark is set with its reason, and nothing else changes (rules R78, R99; that the mark
is a next state is log 11). -/
def Obligations.ReservedCodes : Prop :=
  ∀ s : State,
    exec .reserved37 s = .next { s with refused := true, refusals := s.refusals ++ [.reservedEvent] }
      ∧ ∀ code : BitVec 6, 0x38 ≤ code →
        decode [code.setWidth 8] = .ok (.reserved38to3F code)
          ∧ exec (.reserved38to3F code) s
              = .next { s with refused := true, refusals := s.refusals ++ [.reservedEvent] }

/-! ### Shared operations -/

/-- The coordinator's two operations: a request counts once, withdrawing one that is not there does nothing, and the line
follows the count (rules R194, R195). -/
def Obligations.CoordinatorOperations : Prop :=
  ∀ (s : State) (i : Inst),
    let c := s.ctl i
    (c.pending = true → setInt i s = s)
      ∧ (c.pending = false →
        setInt i s = { s.setCtl i { c with pending := true } with count := s.count + 1, line := true })
      ∧ (c.pending = false → clrInt i s = s)
      ∧ (c.pending = true →
        clrInt i s
          = { s.setCtl i { c with pending := false } with
              count := s.count - 1, line := decide (1 < s.count) })

/-- When a request is raised and withdrawn: in a classic mode by the edges of XI, RI and IE, in turbo mode exactly while
enabled and latched (rules R197, R198). -/
def Obligations.InterruptRequests : Prop :=
  ∀ (s : State) (i : Inst) (old new : Word), coordinatorOk s = true →
    intClassic i old new s = s.withRequest i (s.ctl i) (requestAfter old new (s.ctl i).pending)
      ∧ intTurbo i s = s.withRequest i (s.ctl i) ((s.ctl i).turbo.icrEn && (s.ctl i).turbo.tlatch)

/-- Taking a non-existent-memory error: in a classic mode the buffer is emptied and NI, XI, XL and RL are set with their
request; in turbo mode FES and NXM are set, the rings stop and the request is latched. The step ends there (rules R188,
R189). -/
def Obligations.MemoryErrors : Prop :=
  ∀ (s : State) (i : Inst) (ctx : NxmCtx), coordinatorOk s = true →
    let c := s.ctl i
    let new := c.classic.csr ||| 0x00B4
    (ctx ≠ .initBlock → ctx ≠ .ring →
      (raise i ctx : Op Unit) s
        = .error (.nxm ctx) (s.withRequest i
            { c with tx := { c.tx with txbuf := [] }, classic := { c.classic with csr := new } }
            (requestAfter c.classic.csr new c.pending)))
    ∧ (raise i .ring : Op Unit) s
        = .error (.nxm .ring) (s.withRequest i
            { c with
              tx := { c.tx with txbuf := [] }
              turbo :=
                { c.turbo with
                  srr := { c.turbo.srr with fes := true, nxm := true }, ringsStarted := false, tlatch := true }
              rxSubscribed := false }
            c.turbo.icrEn)

/-- An item entering the Read Queue: a short frame is padded with zeros to 60 bytes and counted as a runt, a long one cut
to 1514 and counted as a giant, a full queue first loses its oldest item, and the item is last, with nothing delivered
(rules R174, R176, R177). -/
def Obligations.ReadQueueInsert : Prop :=
  ∀ (cap : Nat) (kind : ItemKind) (f : List Byte) (c : Ctl),
    let n := f.length
    let b := if n < 60 then f ++ List.replicate (60 - n) 0 else if 1514 < n then f.take 1514 else f
    let full := decide (c.queue.readq.length = cap)
    60 ≤ b.length ∧ b.length ≤ 1514
      ∧ rqInsertCtl cap kind f c
        = { c with
            queue :=
              { readq := (if full then c.queue.readq.drop 1 else c.queue.readq)
                  ++ [{ kind := kind, bytes := b, offset := 0 }]
                loss := c.queue.loss + (if full then 1 else 0) }
            stats :=
              { c.stats with
                runt := c.stats.runt + (if n < 60 then 1 else 0)
                giant := c.stats.giant + (if 1514 < n then 1 else 0)
                dropped := c.stats.dropped + (if full then 1 else 0) } }

/-- Processing a setup packet: the filter list is replaced by the addresses whose six bytes lie inside it, in order, the
second bank only from a packet longer than 112 bytes; promiscuous mode is off unless a long packet's flag says so; only a
packet longer than 128 bytes changes the other settings; the filter is emitted and the sanity timer reloaded (rules R91,
R92, R125 to R127, R209). -/
def Obligations.SetupPacket : Prop :=
  ∀ (s : State) (i : Inst) (f : List Byte), (s.ctl i).mode ≠ .turbo →
    let c := s.ctl i
    let n := f.length
    let bits := s.cfg.setupBits
    let word := f.getD (n - 1) 0 ++ f.getD (n - 2) 0
    let off := fun j b : Nat => if j < 7 then 8 * b + (j + 1) else 64 + 8 * b + (j - 6)
    let filters := (List.range (if n ≤ 112 then 7 else 14)).filterMap fun j =>
      if off j 5 < n then
        some (Mac.mk (f.getD (off j 0) 0) (f.getD (off j 1) 0) (f.getD (off j 2) 0) (f.getD (off j 3) 0)
          (f.getD (off j 4) 0) (f.getD (off j 5) 0))
      else none
    let long := decide (128 < n)
    let setup : Setup :=
      { filters := filters
        allMulticast := if long then word.getLsbD bits.mc else c.setup.allMulticast
        promiscuous := long && word.getLsbD bits.pm
        led := if long then BitVec.ofNat 2 (word.toNat / 2 ^ bits.led) else c.setup.led
        sanitySel := if long then BitVec.ofNat 3 (word.toNat / 2 ^ bits.san) else c.setup.sanitySel }
    setupProcess i f s
      = .ok () ((s.setCtl i { c with
          setup := setup
          stats := { c.stats with setup := c.stats.setup + 1 }
          timers := classicReload c.classic.csr setup.sanitySel c.timers }).addEvent
            (.filter i filters setup.allMulticast setup.promiscuous))

/-- The words of the descriptor a driver encodes, and that decoding them gives back its start, its length and its flags,
whenever the word count fits in 16 bits (rule R87). -/
def Obligations.DescriptorCodec : Prop :=
  ∀ (start : Addr) (len : Nat) (f : DescFlags),
    let h := start.toNat % 2
    let l := (len + h) % 2
    let wc := (len + h + l) / 2
    let a := start.toNat - h
    let d := encodeDesc start len f
    d.w1.toNat = 32768 * f.valid.toNat + 16384 * f.chain.toNat + 8192 * f.eom.toNat + 4096 * f.setup.toNat + 128 * l
        + 64 * h + a / 65536
      ∧ d.w2.toNat = a % 65536
      ∧ d.w3 = -BitVec.ofNat 16 wc
      ∧ (wc ≤ 65535 →
        descStart d = start ∧ descLen d = len ∧ descValid d = f.valid ∧ descChain d = f.chain ∧ descEom d = f.eom
          ∧ descSetup d = f.setup)

/-- The station-address checksum is the sum of the three words of the address, the earlier ones doubled, modulo 65535, its
low byte first (rule R93). -/
def Obligations.AddressChecksum : Prop :=
  ∀ m : Mac,
    (chkByte m 0).toNat + 256 * (chkByte m 1).toNat
      = (4 * (256 * m.b0.toNat + m.b1.toNat) + 2 * (256 * m.b2.toNat + m.b3.toNat)
          + (256 * m.b4.toNat + m.b5.toNat)) % 65535

/-- The block's accesses to guest memory. Each finds the state after the driver's writes that are due have landed; a word
is little-endian; a write changes the bytes at its addresses, where the guest's memory keeps them, and no other; bytes are
written at rising addresses (rules R55, R57, R58, R65, R69; how the driver's writes land is log 16, the bus map's form
log 7). -/
def Obligations.MemoryAccesses : Prop :=
  ∀ (s : State) (i : Inst) (ctx : NxmCtx) (a : Addr),
    let u := observe s
    let at? := fun a => locate s.cfg a
    (wordReady s.cfg a = true → readWord i ctx a s = .ok (u.byteAt (a + 1) ++ u.byteAt a) u)
    ∧ (backed s.cfg a = true → readByte i ctx a s = .ok (u.byteAt a) u)
    ∧ (s.concurrent = [] → u = s)
    ∧ (∀ w rest, s.concurrent = w :: rest →
      u = if w.wait = 0 then observe ((driverState w.addr w.bytes s).setConcurrent rest)
          else s.setConcurrent ({ w with wait := w.wait - 1 } :: rest))
    ∧ (∀ (v : Word) (t : State), Memory.wf s.mem = true → writeWord i ctx a v s = .ok () t →
      (at? a ≠ at? (a + 1) → t.byteAt a = v.setWidth 8 ∧ t.byteAt (a + 1) = (v >>> 8).setWidth 8)
        ∧ (∀ x : Addr, at? x ≠ at? a → at? x ≠ at? (a + 1) → t.byteAt x = u.byteAt x)
        ∧ t = { u with mem := t.mem, trace := s.trace ++ [.word a v] })
    ∧ ∀ (bs : List Byte) (t : State), Memory.wf s.mem = true → s.Quiet → writeBytes i ctx a bs s = .ok () t →
      (∀ j < bs.length, (∀ k < bs.length, j < k → at? (a + BitVec.ofNat 22 j) ≠ at? (a + BitVec.ofNat 22 k)) →
        t.byteAt (a + BitVec.ofNat 22 j) = bs.getD j 0)
        ∧ (∀ x : Addr, (∀ j < bs.length, at? x ≠ at? (a + BitVec.ofNat 22 j)) → t.byteAt x = s.byteAt x)
        ∧ t = { s with mem := t.mem, trace := t.trace }

/-! ### Invariants of the machine -/

/-- Every step keeps the coordinator's invariant: the count is the number of pending instances and the line says it is not
0 (rule R193). -/
def Obligations.StepKeepsCoordinator : Prop :=
  ∀ s t : State, coordinatorOk s = true → step s = .next t → coordinatorOk t = true

/-- Every step keeps guest memory in its canonical form, with no byte listed that `GMEM` does not reach (rules R55, R65;
the form is log 6). -/
def Obligations.StepKeepsMemory : Prop :=
  ∀ s t : State, s.MemoryOk → step s = .next t → t.MemoryOk

/-- Every step keeps both modes legal: one the type allows, in agreement with VAR.MS in a classic mode and with TA (rules
R19, R34, R41). -/
def Obligations.StepKeepsModes : Prop :=
  ∀ s t : State, s.ModesOk → step s = .next t → t.ModesOk

/-- Every step keeps the registers legal: the computed CSR bits are not stored, VAR's read-only bits stay as configured or
0, and at most 14 filter addresses are held (rules R21, R33, R47, R97). -/
def Obligations.StepKeepsRegisters : Prop :=
  ∀ s t : State, s.RegistersOk → step s = .next t → t.RegistersOk

/-- Every step keeps the subscription equal to RE in a classic mode and to the started rings in turbo mode (rule R40). -/
def Obligations.StepKeepsSubscriptions : Prop :=
  ∀ s t : State, s.SubscriptionsOk → step s = .next t → t.SubscriptionsOk

/-- Every step keeps the requests justified: in a classic mode enabled with RI or XI set, in turbo mode exactly enabled and
latched (rules R197, R198, R200). -/
def Obligations.StepKeepsRequests : Prop :=
  ∀ s t : State, s.RequestsOk → step s = .next t → t.RequestsOk

/-- Every step keeps the transmit state legal: the buffer within its capacity, and a message with the transport of the
instance's generation and at the walk's position (rules R39, R158). -/
def Obligations.StepKeepsTransmits : Prop :=
  ∀ s t : State, s.TransmitsOk → step s = .next t → t.TransmitsOk

/-- Every step keeps the Read Queues legal: within capacity, every item between 60 and 1514 bytes long with bytes left to
deliver, when the capacity is at least 1 (rules R48, R151). -/
def Obligations.StepKeepsQueues : Prop :=
  ∀ s t : State, 1 ≤ s.cfg.readqCap → s.QueuesOk → step s = .next t → t.QueuesOk

/-- Every step keeps the timers and the ring indices in range, in a well-formed configuration (rules R44, R212). -/
def Obligations.StepKeepsCounters : Prop :=
  ∀ s t : State, s.cfg.wellFormed = true → s.TimersOk ∧ s.RingsOk → step s = .next t → t.TimersOk ∧ t.RingsOk

/-- The state right after power-on meets every invariant above, under any well-formed configuration, and so does
`State.reset` (rules R217, R220; that reset uses the test configuration is log 3). -/
def Obligations.ResetLegal : Prop :=
  (∀ cfg : Config, cfg.wellFormed = true →
    let s := State.powerOn cfg
    coordinatorOk s = true ∧ s.MemoryOk ∧ s.ModesOk ∧ s.RegistersOk ∧ s.SubscriptionsOk ∧ s.RequestsOk
      ∧ s.TransmitsOk ∧ s.QueuesOk ∧ s.TimersOk ∧ s.RingsOk)
    ∧ State.reset = State.powerOn Config.test ∧ Config.test.wellFormed = true

/-! ### Rules about every operation -/

/-- No operation changes the configuration or clears a mark, and the histories only grow (rules R18, R53; the histories
are the model's own fields, logs 11, 13, 14). -/
def Obligations.ConfigurationAndMarks : Prop :=
  ∀ (i : Instr) (s t : State), exec i s = .next t →
    t.cfg = s.cfg
      ∧ (s.fault ≠ none → t.fault ≠ none)
      ∧ (s.refused = true → t.refused = true)
      ∧ (∀ u, (s.ctl u).hung = true → (t.ctl u).hung = true)
      ∧ (∃ l, t.refusals = s.refusals ++ l) ∧ (∃ l, t.trace = s.trace ++ l) ∧ ∃ l, t.events = s.events ++ l

/-- An operation changes no instance but the ones it is addressed to; an acknowledge, the one it serves (rules R6, R77,
R214). -/
def Obligations.OtherInstanceKept : Prop :=
  ∀ (i : Instr) (u : Inst) (s t : State), u ∉ needs (ackTarget s) i → exec i s = .next t → t.ctl u = s.ctl u

/-- Turbo mode is left only by a full reset: an ARQR write with SR, the expiry of the turbo sanity timer, a bus reset or a
power-on; the mode is then compatible and TA is 0 (rule R163). -/
def Obligations.TurboLeftOnlyByReset : Prop :=
  ∀ (i : Instr) (u : Inst) (s t : State), s.ModesOk → exec i s = .next t →
    (s.ctl u).mode = .turbo → (t.ctl u).mode ≠ .turbo →
    (i = .busreset ∨ i = .poweron
        ∨ (∃ d, i = .tWrArqr u d ∧ d.getLsbD s.cfg.layout.arqSr = true)
        ∨ (i = .tick u ∧ (s.ctl u).timers.sanArmed = true ∧ (s.ctl u).timers.sanCount ≤ 1))
      ∧ (t.ctl u).mode = .compatible ∧ (t.ctl u).turbo.srr.ta = false

/-- RL is cleared only by a write of RBDL_HI and XL only by a write of XBDL_HI, of the same instance (rules R25, R26). -/
def Obligations.ListBitsClearedOnlyByBase : Prop :=
  ∀ (i : Instr) (u : Inst) (s t : State), exec i s = .next t →
    ((s.ctl u).classic.csr.getLsbD 5 = true → (t.ctl u).classic.csr.getLsbD 5 = false →
      ∃ d, i = .lWrRbdlHi u d ∨ i = .cWrRbdlHi u d)
    ∧ ((s.ctl u).classic.csr.getLsbD 4 = true → (t.ctl u).classic.csr.getLsbD 4 = false →
      ∃ d, i = .lWrXbdlHi u d ∨ i = .cWrXbdlHi u d)

end
end

