-- ==== Sys2Proof/Laws/State.lean ====
section
/-! SUPPORT. What each named update of the state changes and what it leaves: one lemma for each field, so that no proof unfolds
a record update. -/

namespace Sys2Proof

@[simp] theorem Inst.other_other (i : Inst) : i.other.other = i := by cases i <;> rfl
@[simp] theorem Inst.other_ne (i : Inst) : i.other ≠ i := by cases i <;> decide
theorem Inst.eq_other_of_ne {i j : Inst} (h : j ≠ i) : j = i.other := by
  cases i <;> cases j <;> first | rfl | exact absurd rfl h

end Sys2Proof

namespace Sys2Proof.Machine

/-! ### Instances -/

@[simp] theorem State.ctl_i0 (s : State) : s.ctl .i0 = s.i0 := rfl
@[simp] theorem State.ctl_i1 (s : State) : s.ctl .i1 = s.i1 := rfl
@[simp] theorem State.setCtl_ctl_same (s : State) (i : Inst) (c : Ctl) : (s.setCtl i c).ctl i = c := by cases i <;> rfl
@[simp] theorem State.setCtl_ctl_other (s : State) (i : Inst) (c : Ctl) :
    (s.setCtl i c).ctl i.other = s.ctl i.other := by cases i <;> rfl
theorem State.setCtl_ctl_ne (s : State) (i j : Inst) (c : Ctl) (h : j ≠ i) : (s.setCtl i c).ctl j = s.ctl j := by
  cases i <;> cases j <;> first | rfl | exact absurd rfl h
@[simp] theorem State.setCtl_setCtl (s : State) (i : Inst) (a b : Ctl) : (s.setCtl i a).setCtl i b = s.setCtl i b := by
  cases i <;> rfl
@[simp] theorem State.setCtl_self (s : State) (i : Inst) : s.setCtl i (s.ctl i) = s := by cases i <;> rfl
@[simp] theorem onCtl_ctl_same (i : Inst) (f : Ctl → Ctl) (s : State) : (onCtl i f s).ctl i = f (s.ctl i) := by
  cases i <;> rfl
@[simp] theorem onCtl_ctl_other (i : Inst) (f : Ctl → Ctl) (s : State) : (onCtl i f s).ctl i.other = s.ctl i.other := by
  cases i <;> rfl
@[simp] theorem onCtl_onCtl (i : Inst) (f g : Ctl → Ctl) (s : State) :
    onCtl i f (onCtl i g s) = onCtl i (fun c => f (g c)) s := by cases i <;> rfl

@[simp] theorem State.setCtl_count (s : State) (i : Inst) (c : Ctl) : (s.setCtl i c).count = s.count := by cases i <;> rfl
@[simp] theorem State.setCtl_line (s : State) (i : Inst) (c : Ctl) : (s.setCtl i c).line = s.line := by cases i <;> rfl
@[simp] theorem State.setCtl_fault (s : State) (i : Inst) (c : Ctl) : (s.setCtl i c).fault = s.fault := by cases i <;> rfl
@[simp] theorem State.setCtl_refused (s : State) (i : Inst) (c : Ctl) : (s.setCtl i c).refused = s.refused := by cases i <;> rfl
@[simp] theorem State.setCtl_refusals (s : State) (i : Inst) (c : Ctl) : (s.setCtl i c).refusals = s.refusals := by cases i <;> rfl
@[simp] theorem State.setCtl_draws (s : State) (i : Inst) (c : Ctl) : (s.setCtl i c).draws = s.draws := by cases i <;> rfl
@[simp] theorem State.setCtl_inputs (s : State) (i : Inst) (c : Ctl) : (s.setCtl i c).inputs = s.inputs := by cases i <;> rfl
@[simp] theorem State.setCtl_yielded (s : State) (i : Inst) (c : Ctl) : (s.setCtl i c).yielded = s.yielded := by cases i <;> rfl
@[simp] theorem State.setCtl_mem (s : State) (i : Inst) (c : Ctl) : (s.setCtl i c).mem = s.mem := by cases i <;> rfl
@[simp] theorem State.setCtl_trace (s : State) (i : Inst) (c : Ctl) : (s.setCtl i c).trace = s.trace := by cases i <;> rfl
@[simp] theorem State.setCtl_concurrent (s : State) (i : Inst) (c : Ctl) : (s.setCtl i c).concurrent = s.concurrent := by cases i <;> rfl
@[simp] theorem State.setCtl_events (s : State) (i : Inst) (c : Ctl) : (s.setCtl i c).events = s.events := by cases i <;> rfl
@[simp] theorem State.setCtl_cfg (s : State) (i : Inst) (c : Ctl) : (s.setCtl i c).cfg = s.cfg := by cases i <;> rfl
@[simp] theorem onCtl_count (i : Inst) (f : Ctl → Ctl) (s : State) : (onCtl i f s).count = s.count := by cases i <;> rfl
@[simp] theorem onCtl_line (i : Inst) (f : Ctl → Ctl) (s : State) : (onCtl i f s).line = s.line := by cases i <;> rfl
@[simp] theorem onCtl_fault (i : Inst) (f : Ctl → Ctl) (s : State) : (onCtl i f s).fault = s.fault := by cases i <;> rfl
@[simp] theorem onCtl_refused (i : Inst) (f : Ctl → Ctl) (s : State) : (onCtl i f s).refused = s.refused := by cases i <;> rfl
@[simp] theorem onCtl_refusals (i : Inst) (f : Ctl → Ctl) (s : State) : (onCtl i f s).refusals = s.refusals := by cases i <;> rfl
@[simp] theorem onCtl_draws (i : Inst) (f : Ctl → Ctl) (s : State) : (onCtl i f s).draws = s.draws := by cases i <;> rfl
@[simp] theorem onCtl_inputs (i : Inst) (f : Ctl → Ctl) (s : State) : (onCtl i f s).inputs = s.inputs := by cases i <;> rfl
@[simp] theorem onCtl_yielded (i : Inst) (f : Ctl → Ctl) (s : State) : (onCtl i f s).yielded = s.yielded := by cases i <;> rfl
@[simp] theorem onCtl_mem (i : Inst) (f : Ctl → Ctl) (s : State) : (onCtl i f s).mem = s.mem := by cases i <;> rfl
@[simp] theorem onCtl_trace (i : Inst) (f : Ctl → Ctl) (s : State) : (onCtl i f s).trace = s.trace := by cases i <;> rfl
@[simp] theorem onCtl_concurrent (i : Inst) (f : Ctl → Ctl) (s : State) : (onCtl i f s).concurrent = s.concurrent := by cases i <;> rfl
@[simp] theorem onCtl_events (i : Inst) (f : Ctl → Ctl) (s : State) : (onCtl i f s).events = s.events := by cases i <;> rfl
@[simp] theorem onCtl_cfg (i : Inst) (f : Ctl → Ctl) (s : State) : (onCtl i f s).cfg = s.cfg := by cases i <;> rfl

/-! ### The rest of the state -/

@[simp] theorem State.setCoord_ctl (s : State) (n : Nat) (l : Bool) (i : Inst) : (s.setCoord n l).ctl i = s.ctl i := by cases i <;> rfl
@[simp] theorem State.setCoord_setCtl (s : State) (n : Nat) (l : Bool) (i : Inst) (c : Ctl) :
    (s.setCtl i c).setCoord n l = (s.setCoord n l).setCtl i c := by cases i <;> rfl
@[simp] theorem State.setCoord_i0 (s : State) (n : Nat) (l : Bool) : (s.setCoord n l).i0 = s.i0 := rfl
@[simp] theorem State.setCoord_i1 (s : State) (n : Nat) (l : Bool) : (s.setCoord n l).i1 = s.i1 := rfl
@[simp] theorem State.setCoord_count (s : State) (n : Nat) (l : Bool) : (s.setCoord n l).count = n := rfl
@[simp] theorem State.setCoord_line (s : State) (n : Nat) (l : Bool) : (s.setCoord n l).line = l := rfl
@[simp] theorem State.setCoord_fault (s : State) (n : Nat) (l : Bool) : (s.setCoord n l).fault = s.fault := rfl
@[simp] theorem State.setCoord_refused (s : State) (n : Nat) (l : Bool) : (s.setCoord n l).refused = s.refused := rfl
@[simp] theorem State.setCoord_refusals (s : State) (n : Nat) (l : Bool) : (s.setCoord n l).refusals = s.refusals := rfl
@[simp] theorem State.setCoord_draws (s : State) (n : Nat) (l : Bool) : (s.setCoord n l).draws = s.draws := rfl
@[simp] theorem State.setCoord_inputs (s : State) (n : Nat) (l : Bool) : (s.setCoord n l).inputs = s.inputs := rfl
@[simp] theorem State.setCoord_yielded (s : State) (n : Nat) (l : Bool) : (s.setCoord n l).yielded = s.yielded := rfl
@[simp] theorem State.setCoord_mem (s : State) (n : Nat) (l : Bool) : (s.setCoord n l).mem = s.mem := rfl
@[simp] theorem State.setCoord_trace (s : State) (n : Nat) (l : Bool) : (s.setCoord n l).trace = s.trace := rfl
@[simp] theorem State.setCoord_concurrent (s : State) (n : Nat) (l : Bool) : (s.setCoord n l).concurrent = s.concurrent := rfl
@[simp] theorem State.setCoord_events (s : State) (n : Nat) (l : Bool) : (s.setCoord n l).events = s.events := rfl
@[simp] theorem State.setCoord_cfg (s : State) (n : Nat) (l : Bool) : (s.setCoord n l).cfg = s.cfg := rfl
@[simp] theorem State.setFault_ctl (s : State) (r : FaultReason) (i : Inst) : (s.setFault r).ctl i = s.ctl i := by cases i <;> rfl
@[simp] theorem State.setFault_setCtl (s : State) (r : FaultReason) (i : Inst) (c : Ctl) :
    (s.setCtl i c).setFault r = (s.setFault r).setCtl i c := by cases i <;> rfl
@[simp] theorem State.setFault_i0 (s : State) (r : FaultReason) : (s.setFault r).i0 = s.i0 := rfl
@[simp] theorem State.setFault_i1 (s : State) (r : FaultReason) : (s.setFault r).i1 = s.i1 := rfl
@[simp] theorem State.setFault_count (s : State) (r : FaultReason) : (s.setFault r).count = s.count := rfl
@[simp] theorem State.setFault_line (s : State) (r : FaultReason) : (s.setFault r).line = s.line := rfl
@[simp] theorem State.setFault_fault (s : State) (r : FaultReason) : (s.setFault r).fault = some r := rfl
@[simp] theorem State.setFault_refused (s : State) (r : FaultReason) : (s.setFault r).refused = s.refused := rfl
@[simp] theorem State.setFault_refusals (s : State) (r : FaultReason) : (s.setFault r).refusals = s.refusals := rfl
@[simp] theorem State.setFault_draws (s : State) (r : FaultReason) : (s.setFault r).draws = s.draws := rfl
@[simp] theorem State.setFault_inputs (s : State) (r : FaultReason) : (s.setFault r).inputs = s.inputs := rfl
@[simp] theorem State.setFault_yielded (s : State) (r : FaultReason) : (s.setFault r).yielded = s.yielded := rfl
@[simp] theorem State.setFault_mem (s : State) (r : FaultReason) : (s.setFault r).mem = s.mem := rfl
@[simp] theorem State.setFault_trace (s : State) (r : FaultReason) : (s.setFault r).trace = s.trace := rfl
@[simp] theorem State.setFault_concurrent (s : State) (r : FaultReason) : (s.setFault r).concurrent = s.concurrent := rfl
@[simp] theorem State.setFault_events (s : State) (r : FaultReason) : (s.setFault r).events = s.events := rfl
@[simp] theorem State.setFault_cfg (s : State) (r : FaultReason) : (s.setFault r).cfg = s.cfg := rfl
@[simp] theorem State.addRefusal_ctl (s : State) (r : RefuseReason) (i : Inst) : (s.addRefusal r).ctl i = s.ctl i := by cases i <;> rfl
@[simp] theorem State.addRefusal_setCtl (s : State) (r : RefuseReason) (i : Inst) (c : Ctl) :
    (s.setCtl i c).addRefusal r = (s.addRefusal r).setCtl i c := by cases i <;> rfl
@[simp] theorem State.addRefusal_i0 (s : State) (r : RefuseReason) : (s.addRefusal r).i0 = s.i0 := rfl
@[simp] theorem State.addRefusal_i1 (s : State) (r : RefuseReason) : (s.addRefusal r).i1 = s.i1 := rfl
@[simp] theorem State.addRefusal_count (s : State) (r : RefuseReason) : (s.addRefusal r).count = s.count := rfl
@[simp] theorem State.addRefusal_line (s : State) (r : RefuseReason) : (s.addRefusal r).line = s.line := rfl
@[simp] theorem State.addRefusal_fault (s : State) (r : RefuseReason) : (s.addRefusal r).fault = s.fault := rfl
@[simp] theorem State.addRefusal_refused (s : State) (r : RefuseReason) : (s.addRefusal r).refused = true := rfl
@[simp] theorem State.addRefusal_refusals (s : State) (r : RefuseReason) : (s.addRefusal r).refusals = s.refusals ++ [r] := rfl
@[simp] theorem State.addRefusal_draws (s : State) (r : RefuseReason) : (s.addRefusal r).draws = s.draws := rfl
@[simp] theorem State.addRefusal_inputs (s : State) (r : RefuseReason) : (s.addRefusal r).inputs = s.inputs := rfl
@[simp] theorem State.addRefusal_yielded (s : State) (r : RefuseReason) : (s.addRefusal r).yielded = s.yielded := rfl
@[simp] theorem State.addRefusal_mem (s : State) (r : RefuseReason) : (s.addRefusal r).mem = s.mem := rfl
@[simp] theorem State.addRefusal_trace (s : State) (r : RefuseReason) : (s.addRefusal r).trace = s.trace := rfl
@[simp] theorem State.addRefusal_concurrent (s : State) (r : RefuseReason) : (s.addRefusal r).concurrent = s.concurrent := rfl
@[simp] theorem State.addRefusal_events (s : State) (r : RefuseReason) : (s.addRefusal r).events = s.events := rfl
@[simp] theorem State.addRefusal_cfg (s : State) (r : RefuseReason) : (s.addRefusal r).cfg = s.cfg := rfl
@[simp] theorem State.nextDraw_ctl (s : State) (i : Inst) : (s.nextDraw).ctl i = s.ctl i := by cases i <;> rfl
@[simp] theorem State.nextDraw_setCtl (s : State) (i : Inst) (c : Ctl) :
    (s.setCtl i c).nextDraw = (s.nextDraw).setCtl i c := by cases i <;> rfl
@[simp] theorem State.nextDraw_i0 (s : State) : (s.nextDraw).i0 = s.i0 := rfl
@[simp] theorem State.nextDraw_i1 (s : State) : (s.nextDraw).i1 = s.i1 := rfl
@[simp] theorem State.nextDraw_count (s : State) : (s.nextDraw).count = s.count := rfl
@[simp] theorem State.nextDraw_line (s : State) : (s.nextDraw).line = s.line := rfl
@[simp] theorem State.nextDraw_fault (s : State) : (s.nextDraw).fault = s.fault := rfl
@[simp] theorem State.nextDraw_refused (s : State) : (s.nextDraw).refused = s.refused := rfl
@[simp] theorem State.nextDraw_refusals (s : State) : (s.nextDraw).refusals = s.refusals := rfl
@[simp] theorem State.nextDraw_draws (s : State) : (s.nextDraw).draws = s.draws + 1 := rfl
@[simp] theorem State.nextDraw_inputs (s : State) : (s.nextDraw).inputs = s.inputs := rfl
@[simp] theorem State.nextDraw_yielded (s : State) : (s.nextDraw).yielded = s.yielded := rfl
@[simp] theorem State.nextDraw_mem (s : State) : (s.nextDraw).mem = s.mem := rfl
@[simp] theorem State.nextDraw_trace (s : State) : (s.nextDraw).trace = s.trace := rfl
@[simp] theorem State.nextDraw_concurrent (s : State) : (s.nextDraw).concurrent = s.concurrent := rfl
@[simp] theorem State.nextDraw_events (s : State) : (s.nextDraw).events = s.events := rfl
@[simp] theorem State.nextDraw_cfg (s : State) : (s.nextDraw).cfg = s.cfg := rfl
@[simp] theorem State.setInputs_ctl (s : State) (v : List Input) (i : Inst) : (s.setInputs v).ctl i = s.ctl i := by cases i <;> rfl
@[simp] theorem State.setInputs_setCtl (s : State) (v : List Input) (i : Inst) (c : Ctl) :
    (s.setCtl i c).setInputs v = (s.setInputs v).setCtl i c := by cases i <;> rfl
@[simp] theorem State.setInputs_i0 (s : State) (v : List Input) : (s.setInputs v).i0 = s.i0 := rfl
@[simp] theorem State.setInputs_i1 (s : State) (v : List Input) : (s.setInputs v).i1 = s.i1 := rfl
@[simp] theorem State.setInputs_count (s : State) (v : List Input) : (s.setInputs v).count = s.count := rfl
@[simp] theorem State.setInputs_line (s : State) (v : List Input) : (s.setInputs v).line = s.line := rfl
@[simp] theorem State.setInputs_fault (s : State) (v : List Input) : (s.setInputs v).fault = s.fault := rfl
@[simp] theorem State.setInputs_refused (s : State) (v : List Input) : (s.setInputs v).refused = s.refused := rfl
@[simp] theorem State.setInputs_refusals (s : State) (v : List Input) : (s.setInputs v).refusals = s.refusals := rfl
@[simp] theorem State.setInputs_draws (s : State) (v : List Input) : (s.setInputs v).draws = s.draws := rfl
@[simp] theorem State.setInputs_inputs (s : State) (v : List Input) : (s.setInputs v).inputs = v := rfl
@[simp] theorem State.setInputs_yielded (s : State) (v : List Input) : (s.setInputs v).yielded = s.yielded := rfl
@[simp] theorem State.setInputs_mem (s : State) (v : List Input) : (s.setInputs v).mem = s.mem := rfl
@[simp] theorem State.setInputs_trace (s : State) (v : List Input) : (s.setInputs v).trace = s.trace := rfl
@[simp] theorem State.setInputs_concurrent (s : State) (v : List Input) : (s.setInputs v).concurrent = s.concurrent := rfl
@[simp] theorem State.setInputs_events (s : State) (v : List Input) : (s.setInputs v).events = s.events := rfl
@[simp] theorem State.setInputs_cfg (s : State) (v : List Input) : (s.setInputs v).cfg = s.cfg := rfl
@[simp] theorem State.setYield_ctl (s : State) (v : Yield) (i : Inst) : (s.setYield v).ctl i = s.ctl i := by cases i <;> rfl
@[simp] theorem State.setYield_setCtl (s : State) (v : Yield) (i : Inst) (c : Ctl) :
    (s.setCtl i c).setYield v = (s.setYield v).setCtl i c := by cases i <;> rfl
@[simp] theorem State.setYield_i0 (s : State) (v : Yield) : (s.setYield v).i0 = s.i0 := rfl
@[simp] theorem State.setYield_i1 (s : State) (v : Yield) : (s.setYield v).i1 = s.i1 := rfl
@[simp] theorem State.setYield_count (s : State) (v : Yield) : (s.setYield v).count = s.count := rfl
@[simp] theorem State.setYield_line (s : State) (v : Yield) : (s.setYield v).line = s.line := rfl
@[simp] theorem State.setYield_fault (s : State) (v : Yield) : (s.setYield v).fault = s.fault := rfl
@[simp] theorem State.setYield_refused (s : State) (v : Yield) : (s.setYield v).refused = s.refused := rfl
@[simp] theorem State.setYield_refusals (s : State) (v : Yield) : (s.setYield v).refusals = s.refusals := rfl
@[simp] theorem State.setYield_draws (s : State) (v : Yield) : (s.setYield v).draws = s.draws := rfl
@[simp] theorem State.setYield_inputs (s : State) (v : Yield) : (s.setYield v).inputs = s.inputs := rfl
@[simp] theorem State.setYield_yielded (s : State) (v : Yield) : (s.setYield v).yielded = v := rfl
@[simp] theorem State.setYield_mem (s : State) (v : Yield) : (s.setYield v).mem = s.mem := rfl
@[simp] theorem State.setYield_trace (s : State) (v : Yield) : (s.setYield v).trace = s.trace := rfl
@[simp] theorem State.setYield_concurrent (s : State) (v : Yield) : (s.setYield v).concurrent = s.concurrent := rfl
@[simp] theorem State.setYield_events (s : State) (v : Yield) : (s.setYield v).events = s.events := rfl
@[simp] theorem State.setYield_cfg (s : State) (v : Yield) : (s.setYield v).cfg = s.cfg := rfl
@[simp] theorem State.setMem_ctl (s : State) (v : List Host.Cell) (i : Inst) : (s.setMem v).ctl i = s.ctl i := by cases i <;> rfl
@[simp] theorem State.setMem_setCtl (s : State) (v : List Host.Cell) (i : Inst) (c : Ctl) :
    (s.setCtl i c).setMem v = (s.setMem v).setCtl i c := by cases i <;> rfl
@[simp] theorem State.setMem_i0 (s : State) (v : List Host.Cell) : (s.setMem v).i0 = s.i0 := rfl
@[simp] theorem State.setMem_i1 (s : State) (v : List Host.Cell) : (s.setMem v).i1 = s.i1 := rfl
@[simp] theorem State.setMem_count (s : State) (v : List Host.Cell) : (s.setMem v).count = s.count := rfl
@[simp] theorem State.setMem_line (s : State) (v : List Host.Cell) : (s.setMem v).line = s.line := rfl
@[simp] theorem State.setMem_fault (s : State) (v : List Host.Cell) : (s.setMem v).fault = s.fault := rfl
@[simp] theorem State.setMem_refused (s : State) (v : List Host.Cell) : (s.setMem v).refused = s.refused := rfl
@[simp] theorem State.setMem_refusals (s : State) (v : List Host.Cell) : (s.setMem v).refusals = s.refusals := rfl
@[simp] theorem State.setMem_draws (s : State) (v : List Host.Cell) : (s.setMem v).draws = s.draws := rfl
@[simp] theorem State.setMem_inputs (s : State) (v : List Host.Cell) : (s.setMem v).inputs = s.inputs := rfl
@[simp] theorem State.setMem_yielded (s : State) (v : List Host.Cell) : (s.setMem v).yielded = s.yielded := rfl
@[simp] theorem State.setMem_mem (s : State) (v : List Host.Cell) : (s.setMem v).mem = v := rfl
@[simp] theorem State.setMem_trace (s : State) (v : List Host.Cell) : (s.setMem v).trace = s.trace := rfl
@[simp] theorem State.setMem_concurrent (s : State) (v : List Host.Cell) : (s.setMem v).concurrent = s.concurrent := rfl
@[simp] theorem State.setMem_events (s : State) (v : List Host.Cell) : (s.setMem v).events = s.events := rfl
@[simp] theorem State.setMem_cfg (s : State) (v : List Host.Cell) : (s.setMem v).cfg = s.cfg := rfl
@[simp] theorem State.setConcurrent_ctl (s : State) (v : List DriverWrite) (i : Inst) : (s.setConcurrent v).ctl i = s.ctl i := by cases i <;> rfl
@[simp] theorem State.setConcurrent_setCtl (s : State) (v : List DriverWrite) (i : Inst) (c : Ctl) :
    (s.setCtl i c).setConcurrent v = (s.setConcurrent v).setCtl i c := by cases i <;> rfl
@[simp] theorem State.setConcurrent_i0 (s : State) (v : List DriverWrite) : (s.setConcurrent v).i0 = s.i0 := rfl
@[simp] theorem State.setConcurrent_i1 (s : State) (v : List DriverWrite) : (s.setConcurrent v).i1 = s.i1 := rfl
@[simp] theorem State.setConcurrent_count (s : State) (v : List DriverWrite) : (s.setConcurrent v).count = s.count := rfl
@[simp] theorem State.setConcurrent_line (s : State) (v : List DriverWrite) : (s.setConcurrent v).line = s.line := rfl
@[simp] theorem State.setConcurrent_fault (s : State) (v : List DriverWrite) : (s.setConcurrent v).fault = s.fault := rfl
@[simp] theorem State.setConcurrent_refused (s : State) (v : List DriverWrite) : (s.setConcurrent v).refused = s.refused := rfl
@[simp] theorem State.setConcurrent_refusals (s : State) (v : List DriverWrite) : (s.setConcurrent v).refusals = s.refusals := rfl
@[simp] theorem State.setConcurrent_draws (s : State) (v : List DriverWrite) : (s.setConcurrent v).draws = s.draws := rfl
@[simp] theorem State.setConcurrent_inputs (s : State) (v : List DriverWrite) : (s.setConcurrent v).inputs = s.inputs := rfl
@[simp] theorem State.setConcurrent_yielded (s : State) (v : List DriverWrite) : (s.setConcurrent v).yielded = s.yielded := rfl
@[simp] theorem State.setConcurrent_mem (s : State) (v : List DriverWrite) : (s.setConcurrent v).mem = s.mem := rfl
@[simp] theorem State.setConcurrent_trace (s : State) (v : List DriverWrite) : (s.setConcurrent v).trace = s.trace := rfl
@[simp] theorem State.setConcurrent_concurrent (s : State) (v : List DriverWrite) : (s.setConcurrent v).concurrent = v := rfl
@[simp] theorem State.setConcurrent_events (s : State) (v : List DriverWrite) : (s.setConcurrent v).events = s.events := rfl
@[simp] theorem State.setConcurrent_cfg (s : State) (v : List DriverWrite) : (s.setConcurrent v).cfg = s.cfg := rfl
@[simp] theorem State.addTrace_ctl (s : State) (e : MemEvent) (i : Inst) : (s.addTrace e).ctl i = s.ctl i := by cases i <;> rfl
@[simp] theorem State.addTrace_setCtl (s : State) (e : MemEvent) (i : Inst) (c : Ctl) :
    (s.setCtl i c).addTrace e = (s.addTrace e).setCtl i c := by cases i <;> rfl
@[simp] theorem State.addTrace_i0 (s : State) (e : MemEvent) : (s.addTrace e).i0 = s.i0 := rfl
@[simp] theorem State.addTrace_i1 (s : State) (e : MemEvent) : (s.addTrace e).i1 = s.i1 := rfl
@[simp] theorem State.addTrace_count (s : State) (e : MemEvent) : (s.addTrace e).count = s.count := rfl
@[simp] theorem State.addTrace_line (s : State) (e : MemEvent) : (s.addTrace e).line = s.line := rfl
@[simp] theorem State.addTrace_fault (s : State) (e : MemEvent) : (s.addTrace e).fault = s.fault := rfl
@[simp] theorem State.addTrace_refused (s : State) (e : MemEvent) : (s.addTrace e).refused = s.refused := rfl
@[simp] theorem State.addTrace_refusals (s : State) (e : MemEvent) : (s.addTrace e).refusals = s.refusals := rfl
@[simp] theorem State.addTrace_draws (s : State) (e : MemEvent) : (s.addTrace e).draws = s.draws := rfl
@[simp] theorem State.addTrace_inputs (s : State) (e : MemEvent) : (s.addTrace e).inputs = s.inputs := rfl
@[simp] theorem State.addTrace_yielded (s : State) (e : MemEvent) : (s.addTrace e).yielded = s.yielded := rfl
@[simp] theorem State.addTrace_mem (s : State) (e : MemEvent) : (s.addTrace e).mem = s.mem := rfl
@[simp] theorem State.addTrace_trace (s : State) (e : MemEvent) : (s.addTrace e).trace = s.trace ++ [e] := rfl
@[simp] theorem State.addTrace_concurrent (s : State) (e : MemEvent) : (s.addTrace e).concurrent = s.concurrent := rfl
@[simp] theorem State.addTrace_events (s : State) (e : MemEvent) : (s.addTrace e).events = s.events := rfl
@[simp] theorem State.addTrace_cfg (s : State) (e : MemEvent) : (s.addTrace e).cfg = s.cfg := rfl
@[simp] theorem State.addEvent_ctl (s : State) (e : OutEvent) (i : Inst) : (s.addEvent e).ctl i = s.ctl i := by cases i <;> rfl
@[simp] theorem State.addEvent_setCtl (s : State) (e : OutEvent) (i : Inst) (c : Ctl) :
    (s.setCtl i c).addEvent e = (s.addEvent e).setCtl i c := by cases i <;> rfl
@[simp] theorem State.addEvent_i0 (s : State) (e : OutEvent) : (s.addEvent e).i0 = s.i0 := rfl
@[simp] theorem State.addEvent_i1 (s : State) (e : OutEvent) : (s.addEvent e).i1 = s.i1 := rfl
@[simp] theorem State.addEvent_count (s : State) (e : OutEvent) : (s.addEvent e).count = s.count := rfl
@[simp] theorem State.addEvent_line (s : State) (e : OutEvent) : (s.addEvent e).line = s.line := rfl
@[simp] theorem State.addEvent_fault (s : State) (e : OutEvent) : (s.addEvent e).fault = s.fault := rfl
@[simp] theorem State.addEvent_refused (s : State) (e : OutEvent) : (s.addEvent e).refused = s.refused := rfl
@[simp] theorem State.addEvent_refusals (s : State) (e : OutEvent) : (s.addEvent e).refusals = s.refusals := rfl
@[simp] theorem State.addEvent_draws (s : State) (e : OutEvent) : (s.addEvent e).draws = s.draws := rfl
@[simp] theorem State.addEvent_inputs (s : State) (e : OutEvent) : (s.addEvent e).inputs = s.inputs := rfl
@[simp] theorem State.addEvent_yielded (s : State) (e : OutEvent) : (s.addEvent e).yielded = s.yielded := rfl
@[simp] theorem State.addEvent_mem (s : State) (e : OutEvent) : (s.addEvent e).mem = s.mem := rfl
@[simp] theorem State.addEvent_trace (s : State) (e : OutEvent) : (s.addEvent e).trace = s.trace := rfl
@[simp] theorem State.addEvent_concurrent (s : State) (e : OutEvent) : (s.addEvent e).concurrent = s.concurrent := rfl
@[simp] theorem State.addEvent_events (s : State) (e : OutEvent) : (s.addEvent e).events = s.events ++ [e] := rfl
@[simp] theorem State.addEvent_cfg (s : State) (e : OutEvent) : (s.addEvent e).cfg = s.cfg := rfl

/-! ### An instance -/

@[simp] theorem Ctl.setMode_mode (c : Ctl) (v : Mode) : (c.setMode v).mode = v := rfl
@[simp] theorem Ctl.setMode_classic (c : Ctl) (v : Mode) : (c.setMode v).classic = c.classic := rfl
@[simp] theorem Ctl.setMode_rxSubscribed (c : Ctl) (v : Mode) : (c.setMode v).rxSubscribed = c.rxSubscribed := rfl
@[simp] theorem Ctl.setMode_tx (c : Ctl) (v : Mode) : (c.setMode v).tx = c.tx := rfl
@[simp] theorem Ctl.setMode_turbo (c : Ctl) (v : Mode) : (c.setMode v).turbo = c.turbo := rfl
@[simp] theorem Ctl.setMode_init (c : Ctl) (v : Mode) : (c.setMode v).init = c.init := rfl
@[simp] theorem Ctl.setMode_setup (c : Ctl) (v : Mode) : (c.setMode v).setup = c.setup := rfl
@[simp] theorem Ctl.setMode_queue (c : Ctl) (v : Mode) : (c.setMode v).queue = c.queue := rfl
@[simp] theorem Ctl.setMode_pending (c : Ctl) (v : Mode) : (c.setMode v).pending = c.pending := rfl
@[simp] theorem Ctl.setMode_timers (c : Ctl) (v : Mode) : (c.setMode v).timers = c.timers := rfl
@[simp] theorem Ctl.setMode_stats (c : Ctl) (v : Mode) : (c.setMode v).stats = c.stats := rfl
@[simp] theorem Ctl.setMode_hung (c : Ctl) (v : Mode) : (c.setMode v).hung = c.hung := rfl
@[simp] theorem Ctl.setCsr_mode (c : Ctl) (v : Word) : (c.setCsr v).mode = c.mode := rfl
@[simp] theorem Ctl.setCsr_csr (c : Ctl) (v : Word) : (c.setCsr v).classic.csr = v := rfl
@[simp] theorem Ctl.setCsr_var (c : Ctl) (v : Word) : (c.setCsr v).classic.var = c.classic.var := rfl
@[simp] theorem Ctl.setCsr_rbdlLo (c : Ctl) (v : Word) : (c.setCsr v).classic.rbdlLo = c.classic.rbdlLo := rfl
@[simp] theorem Ctl.setCsr_xbdlLo (c : Ctl) (v : Word) : (c.setCsr v).classic.xbdlLo = c.classic.xbdlLo := rfl
@[simp] theorem Ctl.setCsr_rptr (c : Ctl) (v : Word) : (c.setCsr v).classic.rptr = c.classic.rptr := rfl
@[simp] theorem Ctl.setCsr_xptr (c : Ctl) (v : Word) : (c.setCsr v).classic.xptr = c.classic.xptr := rfl
@[simp] theorem Ctl.setCsr_rxSubscribed (c : Ctl) (v : Word) : (c.setCsr v).rxSubscribed = c.rxSubscribed := rfl
@[simp] theorem Ctl.setCsr_tx (c : Ctl) (v : Word) : (c.setCsr v).tx = c.tx := rfl
@[simp] theorem Ctl.setCsr_turbo (c : Ctl) (v : Word) : (c.setCsr v).turbo = c.turbo := rfl
@[simp] theorem Ctl.setCsr_init (c : Ctl) (v : Word) : (c.setCsr v).init = c.init := rfl
@[simp] theorem Ctl.setCsr_setup (c : Ctl) (v : Word) : (c.setCsr v).setup = c.setup := rfl
@[simp] theorem Ctl.setCsr_queue (c : Ctl) (v : Word) : (c.setCsr v).queue = c.queue := rfl
@[simp] theorem Ctl.setCsr_pending (c : Ctl) (v : Word) : (c.setCsr v).pending = c.pending := rfl
@[simp] theorem Ctl.setCsr_timers (c : Ctl) (v : Word) : (c.setCsr v).timers = c.timers := rfl
@[simp] theorem Ctl.setCsr_stats (c : Ctl) (v : Word) : (c.setCsr v).stats = c.stats := rfl
@[simp] theorem Ctl.setCsr_hung (c : Ctl) (v : Word) : (c.setCsr v).hung = c.hung := rfl
@[simp] theorem Ctl.setVar_mode (c : Ctl) (v : Word) : (c.setVar v).mode = c.mode := rfl
@[simp] theorem Ctl.setVar_csr (c : Ctl) (v : Word) : (c.setVar v).classic.csr = c.classic.csr := rfl
@[simp] theorem Ctl.setVar_var (c : Ctl) (v : Word) : (c.setVar v).classic.var = v := rfl
@[simp] theorem Ctl.setVar_rbdlLo (c : Ctl) (v : Word) : (c.setVar v).classic.rbdlLo = c.classic.rbdlLo := rfl
@[simp] theorem Ctl.setVar_xbdlLo (c : Ctl) (v : Word) : (c.setVar v).classic.xbdlLo = c.classic.xbdlLo := rfl
@[simp] theorem Ctl.setVar_rptr (c : Ctl) (v : Word) : (c.setVar v).classic.rptr = c.classic.rptr := rfl
@[simp] theorem Ctl.setVar_xptr (c : Ctl) (v : Word) : (c.setVar v).classic.xptr = c.classic.xptr := rfl
@[simp] theorem Ctl.setVar_rxSubscribed (c : Ctl) (v : Word) : (c.setVar v).rxSubscribed = c.rxSubscribed := rfl
@[simp] theorem Ctl.setVar_tx (c : Ctl) (v : Word) : (c.setVar v).tx = c.tx := rfl
@[simp] theorem Ctl.setVar_turbo (c : Ctl) (v : Word) : (c.setVar v).turbo = c.turbo := rfl
@[simp] theorem Ctl.setVar_init (c : Ctl) (v : Word) : (c.setVar v).init = c.init := rfl
@[simp] theorem Ctl.setVar_setup (c : Ctl) (v : Word) : (c.setVar v).setup = c.setup := rfl
@[simp] theorem Ctl.setVar_queue (c : Ctl) (v : Word) : (c.setVar v).queue = c.queue := rfl
@[simp] theorem Ctl.setVar_pending (c : Ctl) (v : Word) : (c.setVar v).pending = c.pending := rfl
@[simp] theorem Ctl.setVar_timers (c : Ctl) (v : Word) : (c.setVar v).timers = c.timers := rfl
@[simp] theorem Ctl.setVar_stats (c : Ctl) (v : Word) : (c.setVar v).stats = c.stats := rfl
@[simp] theorem Ctl.setVar_hung (c : Ctl) (v : Word) : (c.setVar v).hung = c.hung := rfl
@[simp] theorem Ctl.setRbdlLo_mode (c : Ctl) (v : Word) : (c.setRbdlLo v).mode = c.mode := rfl
@[simp] theorem Ctl.setRbdlLo_csr (c : Ctl) (v : Word) : (c.setRbdlLo v).classic.csr = c.classic.csr := rfl
@[simp] theorem Ctl.setRbdlLo_var (c : Ctl) (v : Word) : (c.setRbdlLo v).classic.var = c.classic.var := rfl
@[simp] theorem Ctl.setRbdlLo_rbdlLo (c : Ctl) (v : Word) : (c.setRbdlLo v).classic.rbdlLo = v := rfl
@[simp] theorem Ctl.setRbdlLo_xbdlLo (c : Ctl) (v : Word) : (c.setRbdlLo v).classic.xbdlLo = c.classic.xbdlLo := rfl
@[simp] theorem Ctl.setRbdlLo_rptr (c : Ctl) (v : Word) : (c.setRbdlLo v).classic.rptr = c.classic.rptr := rfl
@[simp] theorem Ctl.setRbdlLo_xptr (c : Ctl) (v : Word) : (c.setRbdlLo v).classic.xptr = c.classic.xptr := rfl
@[simp] theorem Ctl.setRbdlLo_rxSubscribed (c : Ctl) (v : Word) : (c.setRbdlLo v).rxSubscribed = c.rxSubscribed := rfl
@[simp] theorem Ctl.setRbdlLo_tx (c : Ctl) (v : Word) : (c.setRbdlLo v).tx = c.tx := rfl
@[simp] theorem Ctl.setRbdlLo_turbo (c : Ctl) (v : Word) : (c.setRbdlLo v).turbo = c.turbo := rfl
@[simp] theorem Ctl.setRbdlLo_init (c : Ctl) (v : Word) : (c.setRbdlLo v).init = c.init := rfl
@[simp] theorem Ctl.setRbdlLo_setup (c : Ctl) (v : Word) : (c.setRbdlLo v).setup = c.setup := rfl
@[simp] theorem Ctl.setRbdlLo_queue (c : Ctl) (v : Word) : (c.setRbdlLo v).queue = c.queue := rfl
@[simp] theorem Ctl.setRbdlLo_pending (c : Ctl) (v : Word) : (c.setRbdlLo v).pending = c.pending := rfl
@[simp] theorem Ctl.setRbdlLo_timers (c : Ctl) (v : Word) : (c.setRbdlLo v).timers = c.timers := rfl
@[simp] theorem Ctl.setRbdlLo_stats (c : Ctl) (v : Word) : (c.setRbdlLo v).stats = c.stats := rfl
@[simp] theorem Ctl.setRbdlLo_hung (c : Ctl) (v : Word) : (c.setRbdlLo v).hung = c.hung := rfl
@[simp] theorem Ctl.setXbdlLo_mode (c : Ctl) (v : Word) : (c.setXbdlLo v).mode = c.mode := rfl
@[simp] theorem Ctl.setXbdlLo_csr (c : Ctl) (v : Word) : (c.setXbdlLo v).classic.csr = c.classic.csr := rfl
@[simp] theorem Ctl.setXbdlLo_var (c : Ctl) (v : Word) : (c.setXbdlLo v).classic.var = c.classic.var := rfl
@[simp] theorem Ctl.setXbdlLo_rbdlLo (c : Ctl) (v : Word) : (c.setXbdlLo v).classic.rbdlLo = c.classic.rbdlLo := rfl
@[simp] theorem Ctl.setXbdlLo_xbdlLo (c : Ctl) (v : Word) : (c.setXbdlLo v).classic.xbdlLo = v := rfl
@[simp] theorem Ctl.setXbdlLo_rptr (c : Ctl) (v : Word) : (c.setXbdlLo v).classic.rptr = c.classic.rptr := rfl
@[simp] theorem Ctl.setXbdlLo_xptr (c : Ctl) (v : Word) : (c.setXbdlLo v).classic.xptr = c.classic.xptr := rfl
@[simp] theorem Ctl.setXbdlLo_rxSubscribed (c : Ctl) (v : Word) : (c.setXbdlLo v).rxSubscribed = c.rxSubscribed := rfl
@[simp] theorem Ctl.setXbdlLo_tx (c : Ctl) (v : Word) : (c.setXbdlLo v).tx = c.tx := rfl
@[simp] theorem Ctl.setXbdlLo_turbo (c : Ctl) (v : Word) : (c.setXbdlLo v).turbo = c.turbo := rfl
@[simp] theorem Ctl.setXbdlLo_init (c : Ctl) (v : Word) : (c.setXbdlLo v).init = c.init := rfl
@[simp] theorem Ctl.setXbdlLo_setup (c : Ctl) (v : Word) : (c.setXbdlLo v).setup = c.setup := rfl
@[simp] theorem Ctl.setXbdlLo_queue (c : Ctl) (v : Word) : (c.setXbdlLo v).queue = c.queue := rfl
@[simp] theorem Ctl.setXbdlLo_pending (c : Ctl) (v : Word) : (c.setXbdlLo v).pending = c.pending := rfl
@[simp] theorem Ctl.setXbdlLo_timers (c : Ctl) (v : Word) : (c.setXbdlLo v).timers = c.timers := rfl
@[simp] theorem Ctl.setXbdlLo_stats (c : Ctl) (v : Word) : (c.setXbdlLo v).stats = c.stats := rfl
@[simp] theorem Ctl.setXbdlLo_hung (c : Ctl) (v : Word) : (c.setXbdlLo v).hung = c.hung := rfl
@[simp] theorem Ctl.setRptr_mode (c : Ctl) (v : Addr) : (c.setRptr v).mode = c.mode := rfl
@[simp] theorem Ctl.setRptr_csr (c : Ctl) (v : Addr) : (c.setRptr v).classic.csr = c.classic.csr := rfl
@[simp] theorem Ctl.setRptr_var (c : Ctl) (v : Addr) : (c.setRptr v).classic.var = c.classic.var := rfl
@[simp] theorem Ctl.setRptr_rbdlLo (c : Ctl) (v : Addr) : (c.setRptr v).classic.rbdlLo = c.classic.rbdlLo := rfl
@[simp] theorem Ctl.setRptr_xbdlLo (c : Ctl) (v : Addr) : (c.setRptr v).classic.xbdlLo = c.classic.xbdlLo := rfl
@[simp] theorem Ctl.setRptr_rptr (c : Ctl) (v : Addr) : (c.setRptr v).classic.rptr = v := rfl
@[simp] theorem Ctl.setRptr_xptr (c : Ctl) (v : Addr) : (c.setRptr v).classic.xptr = c.classic.xptr := rfl
@[simp] theorem Ctl.setRptr_rxSubscribed (c : Ctl) (v : Addr) : (c.setRptr v).rxSubscribed = c.rxSubscribed := rfl
@[simp] theorem Ctl.setRptr_tx (c : Ctl) (v : Addr) : (c.setRptr v).tx = c.tx := rfl
@[simp] theorem Ctl.setRptr_turbo (c : Ctl) (v : Addr) : (c.setRptr v).turbo = c.turbo := rfl
@[simp] theorem Ctl.setRptr_init (c : Ctl) (v : Addr) : (c.setRptr v).init = c.init := rfl
@[simp] theorem Ctl.setRptr_setup (c : Ctl) (v : Addr) : (c.setRptr v).setup = c.setup := rfl
@[simp] theorem Ctl.setRptr_queue (c : Ctl) (v : Addr) : (c.setRptr v).queue = c.queue := rfl
@[simp] theorem Ctl.setRptr_pending (c : Ctl) (v : Addr) : (c.setRptr v).pending = c.pending := rfl
@[simp] theorem Ctl.setRptr_timers (c : Ctl) (v : Addr) : (c.setRptr v).timers = c.timers := rfl
@[simp] theorem Ctl.setRptr_stats (c : Ctl) (v : Addr) : (c.setRptr v).stats = c.stats := rfl
@[simp] theorem Ctl.setRptr_hung (c : Ctl) (v : Addr) : (c.setRptr v).hung = c.hung := rfl
@[simp] theorem Ctl.setXptr_mode (c : Ctl) (v : Addr) : (c.setXptr v).mode = c.mode := rfl
@[simp] theorem Ctl.setXptr_csr (c : Ctl) (v : Addr) : (c.setXptr v).classic.csr = c.classic.csr := rfl
@[simp] theorem Ctl.setXptr_var (c : Ctl) (v : Addr) : (c.setXptr v).classic.var = c.classic.var := rfl
@[simp] theorem Ctl.setXptr_rbdlLo (c : Ctl) (v : Addr) : (c.setXptr v).classic.rbdlLo = c.classic.rbdlLo := rfl
@[simp] theorem Ctl.setXptr_xbdlLo (c : Ctl) (v : Addr) : (c.setXptr v).classic.xbdlLo = c.classic.xbdlLo := rfl
@[simp] theorem Ctl.setXptr_rptr (c : Ctl) (v : Addr) : (c.setXptr v).classic.rptr = c.classic.rptr := rfl
@[simp] theorem Ctl.setXptr_xptr (c : Ctl) (v : Addr) : (c.setXptr v).classic.xptr = v := rfl
@[simp] theorem Ctl.setXptr_rxSubscribed (c : Ctl) (v : Addr) : (c.setXptr v).rxSubscribed = c.rxSubscribed := rfl
@[simp] theorem Ctl.setXptr_tx (c : Ctl) (v : Addr) : (c.setXptr v).tx = c.tx := rfl
@[simp] theorem Ctl.setXptr_turbo (c : Ctl) (v : Addr) : (c.setXptr v).turbo = c.turbo := rfl
@[simp] theorem Ctl.setXptr_init (c : Ctl) (v : Addr) : (c.setXptr v).init = c.init := rfl
@[simp] theorem Ctl.setXptr_setup (c : Ctl) (v : Addr) : (c.setXptr v).setup = c.setup := rfl
@[simp] theorem Ctl.setXptr_queue (c : Ctl) (v : Addr) : (c.setXptr v).queue = c.queue := rfl
@[simp] theorem Ctl.setXptr_pending (c : Ctl) (v : Addr) : (c.setXptr v).pending = c.pending := rfl
@[simp] theorem Ctl.setXptr_timers (c : Ctl) (v : Addr) : (c.setXptr v).timers = c.timers := rfl
@[simp] theorem Ctl.setXptr_stats (c : Ctl) (v : Addr) : (c.setXptr v).stats = c.stats := rfl
@[simp] theorem Ctl.setXptr_hung (c : Ctl) (v : Addr) : (c.setXptr v).hung = c.hung := rfl
@[simp] theorem Ctl.setRxSubscribed_mode (c : Ctl) (v : Bool) : (c.setRxSubscribed v).mode = c.mode := rfl
@[simp] theorem Ctl.setRxSubscribed_classic (c : Ctl) (v : Bool) : (c.setRxSubscribed v).classic = c.classic := rfl
@[simp] theorem Ctl.setRxSubscribed_rxSubscribed (c : Ctl) (v : Bool) : (c.setRxSubscribed v).rxSubscribed = v := rfl
@[simp] theorem Ctl.setRxSubscribed_tx (c : Ctl) (v : Bool) : (c.setRxSubscribed v).tx = c.tx := rfl
@[simp] theorem Ctl.setRxSubscribed_turbo (c : Ctl) (v : Bool) : (c.setRxSubscribed v).turbo = c.turbo := rfl
@[simp] theorem Ctl.setRxSubscribed_init (c : Ctl) (v : Bool) : (c.setRxSubscribed v).init = c.init := rfl
@[simp] theorem Ctl.setRxSubscribed_setup (c : Ctl) (v : Bool) : (c.setRxSubscribed v).setup = c.setup := rfl
@[simp] theorem Ctl.setRxSubscribed_queue (c : Ctl) (v : Bool) : (c.setRxSubscribed v).queue = c.queue := rfl
@[simp] theorem Ctl.setRxSubscribed_pending (c : Ctl) (v : Bool) : (c.setRxSubscribed v).pending = c.pending := rfl
@[simp] theorem Ctl.setRxSubscribed_timers (c : Ctl) (v : Bool) : (c.setRxSubscribed v).timers = c.timers := rfl
@[simp] theorem Ctl.setRxSubscribed_stats (c : Ctl) (v : Bool) : (c.setRxSubscribed v).stats = c.stats := rfl
@[simp] theorem Ctl.setRxSubscribed_hung (c : Ctl) (v : Bool) : (c.setRxSubscribed v).hung = c.hung := rfl
@[simp] theorem Ctl.setTxbuf_mode (c : Ctl) (v : List Byte) : (c.setTxbuf v).mode = c.mode := rfl
@[simp] theorem Ctl.setTxbuf_classic (c : Ctl) (v : List Byte) : (c.setTxbuf v).classic = c.classic := rfl
@[simp] theorem Ctl.setTxbuf_rxSubscribed (c : Ctl) (v : List Byte) : (c.setTxbuf v).rxSubscribed = c.rxSubscribed := rfl
@[simp] theorem Ctl.setTxbuf_txbuf (c : Ctl) (v : List Byte) : (c.setTxbuf v).tx.txbuf = v := rfl
@[simp] theorem Ctl.setTxbuf_txpend (c : Ctl) (v : List Byte) : (c.setTxbuf v).tx.txpend = c.tx.txpend := rfl
@[simp] theorem Ctl.setTxbuf_gen (c : Ctl) (v : List Byte) : (c.setTxbuf v).tx.gen = c.tx.gen := rfl
@[simp] theorem Ctl.setTxbuf_turbo (c : Ctl) (v : List Byte) : (c.setTxbuf v).turbo = c.turbo := rfl
@[simp] theorem Ctl.setTxbuf_init (c : Ctl) (v : List Byte) : (c.setTxbuf v).init = c.init := rfl
@[simp] theorem Ctl.setTxbuf_setup (c : Ctl) (v : List Byte) : (c.setTxbuf v).setup = c.setup := rfl
@[simp] theorem Ctl.setTxbuf_queue (c : Ctl) (v : List Byte) : (c.setTxbuf v).queue = c.queue := rfl
@[simp] theorem Ctl.setTxbuf_pending (c : Ctl) (v : List Byte) : (c.setTxbuf v).pending = c.pending := rfl
@[simp] theorem Ctl.setTxbuf_timers (c : Ctl) (v : List Byte) : (c.setTxbuf v).timers = c.timers := rfl
@[simp] theorem Ctl.setTxbuf_stats (c : Ctl) (v : List Byte) : (c.setTxbuf v).stats = c.stats := rfl
@[simp] theorem Ctl.setTxbuf_hung (c : Ctl) (v : List Byte) : (c.setTxbuf v).hung = c.hung := rfl
@[simp] theorem Ctl.setTxpend_mode (c : Ctl) (v : Option TxPend) : (c.setTxpend v).mode = c.mode := rfl
@[simp] theorem Ctl.setTxpend_classic (c : Ctl) (v : Option TxPend) : (c.setTxpend v).classic = c.classic := rfl
@[simp] theorem Ctl.setTxpend_rxSubscribed (c : Ctl) (v : Option TxPend) : (c.setTxpend v).rxSubscribed = c.rxSubscribed := rfl
@[simp] theorem Ctl.setTxpend_txbuf (c : Ctl) (v : Option TxPend) : (c.setTxpend v).tx.txbuf = c.tx.txbuf := rfl
@[simp] theorem Ctl.setTxpend_txpend (c : Ctl) (v : Option TxPend) : (c.setTxpend v).tx.txpend = v := rfl
@[simp] theorem Ctl.setTxpend_gen (c : Ctl) (v : Option TxPend) : (c.setTxpend v).tx.gen = c.tx.gen := rfl
@[simp] theorem Ctl.setTxpend_turbo (c : Ctl) (v : Option TxPend) : (c.setTxpend v).turbo = c.turbo := rfl
@[simp] theorem Ctl.setTxpend_init (c : Ctl) (v : Option TxPend) : (c.setTxpend v).init = c.init := rfl
@[simp] theorem Ctl.setTxpend_setup (c : Ctl) (v : Option TxPend) : (c.setTxpend v).setup = c.setup := rfl
@[simp] theorem Ctl.setTxpend_queue (c : Ctl) (v : Option TxPend) : (c.setTxpend v).queue = c.queue := rfl
@[simp] theorem Ctl.setTxpend_pending (c : Ctl) (v : Option TxPend) : (c.setTxpend v).pending = c.pending := rfl
@[simp] theorem Ctl.setTxpend_timers (c : Ctl) (v : Option TxPend) : (c.setTxpend v).timers = c.timers := rfl
@[simp] theorem Ctl.setTxpend_stats (c : Ctl) (v : Option TxPend) : (c.setTxpend v).stats = c.stats := rfl
@[simp] theorem Ctl.setTxpend_hung (c : Ctl) (v : Option TxPend) : (c.setTxpend v).hung = c.hung := rfl
@[simp] theorem Ctl.setTx_mode (c : Ctl) (v : Transmit) : (c.setTx v).mode = c.mode := rfl
@[simp] theorem Ctl.setTx_classic (c : Ctl) (v : Transmit) : (c.setTx v).classic = c.classic := rfl
@[simp] theorem Ctl.setTx_rxSubscribed (c : Ctl) (v : Transmit) : (c.setTx v).rxSubscribed = c.rxSubscribed := rfl
@[simp] theorem Ctl.setTx_tx (c : Ctl) (v : Transmit) : (c.setTx v).tx = v := rfl
@[simp] theorem Ctl.setTx_turbo (c : Ctl) (v : Transmit) : (c.setTx v).turbo = c.turbo := rfl
@[simp] theorem Ctl.setTx_init (c : Ctl) (v : Transmit) : (c.setTx v).init = c.init := rfl
@[simp] theorem Ctl.setTx_setup (c : Ctl) (v : Transmit) : (c.setTx v).setup = c.setup := rfl
@[simp] theorem Ctl.setTx_queue (c : Ctl) (v : Transmit) : (c.setTx v).queue = c.queue := rfl
@[simp] theorem Ctl.setTx_pending (c : Ctl) (v : Transmit) : (c.setTx v).pending = c.pending := rfl
@[simp] theorem Ctl.setTx_timers (c : Ctl) (v : Transmit) : (c.setTx v).timers = c.timers := rfl
@[simp] theorem Ctl.setTx_stats (c : Ctl) (v : Transmit) : (c.setTx v).stats = c.stats := rfl
@[simp] theorem Ctl.setTx_hung (c : Ctl) (v : Transmit) : (c.setTx v).hung = c.hung := rfl
@[simp] theorem Ctl.setSrr_mode (c : Ctl) (v : Srr) : (c.setSrr v).mode = c.mode := rfl
@[simp] theorem Ctl.setSrr_classic (c : Ctl) (v : Srr) : (c.setSrr v).classic = c.classic := rfl
@[simp] theorem Ctl.setSrr_rxSubscribed (c : Ctl) (v : Srr) : (c.setSrr v).rxSubscribed = c.rxSubscribed := rfl
@[simp] theorem Ctl.setSrr_tx (c : Ctl) (v : Srr) : (c.setSrr v).tx = c.tx := rfl
@[simp] theorem Ctl.setSrr_srr (c : Ctl) (v : Srr) : (c.setSrr v).turbo.srr = v := rfl
@[simp] theorem Ctl.setSrr_icrEn (c : Ctl) (v : Srr) : (c.setSrr v).turbo.icrEn = c.turbo.icrEn := rfl
@[simp] theorem Ctl.setSrr_ibaLo (c : Ctl) (v : Srr) : (c.setSrr v).turbo.ibaLo = c.turbo.ibaLo := rfl
@[simp] theorem Ctl.setSrr_iba (c : Ctl) (v : Srr) : (c.setSrr v).turbo.iba = c.turbo.iba := rfl
@[simp] theorem Ctl.setSrr_rxRingBase (c : Ctl) (v : Srr) : (c.setSrr v).turbo.rxRingBase = c.turbo.rxRingBase := rfl
@[simp] theorem Ctl.setSrr_txRingBase (c : Ctl) (v : Srr) : (c.setSrr v).turbo.txRingBase = c.turbo.txRingBase := rfl
@[simp] theorem Ctl.setSrr_rxIdx (c : Ctl) (v : Srr) : (c.setSrr v).turbo.rxIdx = c.turbo.rxIdx := rfl
@[simp] theorem Ctl.setSrr_txIdx (c : Ctl) (v : Srr) : (c.setSrr v).turbo.txIdx = c.turbo.txIdx := rfl
@[simp] theorem Ctl.setSrr_ringsStarted (c : Ctl) (v : Srr) : (c.setSrr v).turbo.ringsStarted = c.turbo.ringsStarted := rfl
@[simp] theorem Ctl.setSrr_tlatch (c : Ctl) (v : Srr) : (c.setSrr v).turbo.tlatch = c.turbo.tlatch := rfl
@[simp] theorem Ctl.setSrr_init (c : Ctl) (v : Srr) : (c.setSrr v).init = c.init := rfl
@[simp] theorem Ctl.setSrr_setup (c : Ctl) (v : Srr) : (c.setSrr v).setup = c.setup := rfl
@[simp] theorem Ctl.setSrr_queue (c : Ctl) (v : Srr) : (c.setSrr v).queue = c.queue := rfl
@[simp] theorem Ctl.setSrr_pending (c : Ctl) (v : Srr) : (c.setSrr v).pending = c.pending := rfl
@[simp] theorem Ctl.setSrr_timers (c : Ctl) (v : Srr) : (c.setSrr v).timers = c.timers := rfl
@[simp] theorem Ctl.setSrr_stats (c : Ctl) (v : Srr) : (c.setSrr v).stats = c.stats := rfl
@[simp] theorem Ctl.setSrr_hung (c : Ctl) (v : Srr) : (c.setSrr v).hung = c.hung := rfl
@[simp] theorem Ctl.setIcrEn_mode (c : Ctl) (v : Bool) : (c.setIcrEn v).mode = c.mode := rfl
@[simp] theorem Ctl.setIcrEn_classic (c : Ctl) (v : Bool) : (c.setIcrEn v).classic = c.classic := rfl
@[simp] theorem Ctl.setIcrEn_rxSubscribed (c : Ctl) (v : Bool) : (c.setIcrEn v).rxSubscribed = c.rxSubscribed := rfl
@[simp] theorem Ctl.setIcrEn_tx (c : Ctl) (v : Bool) : (c.setIcrEn v).tx = c.tx := rfl
@[simp] theorem Ctl.setIcrEn_srr (c : Ctl) (v : Bool) : (c.setIcrEn v).turbo.srr = c.turbo.srr := rfl
@[simp] theorem Ctl.setIcrEn_icrEn (c : Ctl) (v : Bool) : (c.setIcrEn v).turbo.icrEn = v := rfl
@[simp] theorem Ctl.setIcrEn_ibaLo (c : Ctl) (v : Bool) : (c.setIcrEn v).turbo.ibaLo = c.turbo.ibaLo := rfl
@[simp] theorem Ctl.setIcrEn_iba (c : Ctl) (v : Bool) : (c.setIcrEn v).turbo.iba = c.turbo.iba := rfl
@[simp] theorem Ctl.setIcrEn_rxRingBase (c : Ctl) (v : Bool) : (c.setIcrEn v).turbo.rxRingBase = c.turbo.rxRingBase := rfl
@[simp] theorem Ctl.setIcrEn_txRingBase (c : Ctl) (v : Bool) : (c.setIcrEn v).turbo.txRingBase = c.turbo.txRingBase := rfl
@[simp] theorem Ctl.setIcrEn_rxIdx (c : Ctl) (v : Bool) : (c.setIcrEn v).turbo.rxIdx = c.turbo.rxIdx := rfl
@[simp] theorem Ctl.setIcrEn_txIdx (c : Ctl) (v : Bool) : (c.setIcrEn v).turbo.txIdx = c.turbo.txIdx := rfl
@[simp] theorem Ctl.setIcrEn_ringsStarted (c : Ctl) (v : Bool) : (c.setIcrEn v).turbo.ringsStarted = c.turbo.ringsStarted := rfl
@[simp] theorem Ctl.setIcrEn_tlatch (c : Ctl) (v : Bool) : (c.setIcrEn v).turbo.tlatch = c.turbo.tlatch := rfl
@[simp] theorem Ctl.setIcrEn_init (c : Ctl) (v : Bool) : (c.setIcrEn v).init = c.init := rfl
@[simp] theorem Ctl.setIcrEn_setup (c : Ctl) (v : Bool) : (c.setIcrEn v).setup = c.setup := rfl
@[simp] theorem Ctl.setIcrEn_queue (c : Ctl) (v : Bool) : (c.setIcrEn v).queue = c.queue := rfl
@[simp] theorem Ctl.setIcrEn_pending (c : Ctl) (v : Bool) : (c.setIcrEn v).pending = c.pending := rfl
@[simp] theorem Ctl.setIcrEn_timers (c : Ctl) (v : Bool) : (c.setIcrEn v).timers = c.timers := rfl
@[simp] theorem Ctl.setIcrEn_stats (c : Ctl) (v : Bool) : (c.setIcrEn v).stats = c.stats := rfl
@[simp] theorem Ctl.setIcrEn_hung (c : Ctl) (v : Bool) : (c.setIcrEn v).hung = c.hung := rfl
@[simp] theorem Ctl.setIbaLo_mode (c : Ctl) (v : Word) : (c.setIbaLo v).mode = c.mode := rfl
@[simp] theorem Ctl.setIbaLo_classic (c : Ctl) (v : Word) : (c.setIbaLo v).classic = c.classic := rfl
@[simp] theorem Ctl.setIbaLo_rxSubscribed (c : Ctl) (v : Word) : (c.setIbaLo v).rxSubscribed = c.rxSubscribed := rfl
@[simp] theorem Ctl.setIbaLo_tx (c : Ctl) (v : Word) : (c.setIbaLo v).tx = c.tx := rfl
@[simp] theorem Ctl.setIbaLo_srr (c : Ctl) (v : Word) : (c.setIbaLo v).turbo.srr = c.turbo.srr := rfl
@[simp] theorem Ctl.setIbaLo_icrEn (c : Ctl) (v : Word) : (c.setIbaLo v).turbo.icrEn = c.turbo.icrEn := rfl
@[simp] theorem Ctl.setIbaLo_ibaLo (c : Ctl) (v : Word) : (c.setIbaLo v).turbo.ibaLo = v := rfl
@[simp] theorem Ctl.setIbaLo_iba (c : Ctl) (v : Word) : (c.setIbaLo v).turbo.iba = c.turbo.iba := rfl
@[simp] theorem Ctl.setIbaLo_rxRingBase (c : Ctl) (v : Word) : (c.setIbaLo v).turbo.rxRingBase = c.turbo.rxRingBase := rfl
@[simp] theorem Ctl.setIbaLo_txRingBase (c : Ctl) (v : Word) : (c.setIbaLo v).turbo.txRingBase = c.turbo.txRingBase := rfl
@[simp] theorem Ctl.setIbaLo_rxIdx (c : Ctl) (v : Word) : (c.setIbaLo v).turbo.rxIdx = c.turbo.rxIdx := rfl
@[simp] theorem Ctl.setIbaLo_txIdx (c : Ctl) (v : Word) : (c.setIbaLo v).turbo.txIdx = c.turbo.txIdx := rfl
@[simp] theorem Ctl.setIbaLo_ringsStarted (c : Ctl) (v : Word) : (c.setIbaLo v).turbo.ringsStarted = c.turbo.ringsStarted := rfl
@[simp] theorem Ctl.setIbaLo_tlatch (c : Ctl) (v : Word) : (c.setIbaLo v).turbo.tlatch = c.turbo.tlatch := rfl
@[simp] theorem Ctl.setIbaLo_init (c : Ctl) (v : Word) : (c.setIbaLo v).init = c.init := rfl
@[simp] theorem Ctl.setIbaLo_setup (c : Ctl) (v : Word) : (c.setIbaLo v).setup = c.setup := rfl
@[simp] theorem Ctl.setIbaLo_queue (c : Ctl) (v : Word) : (c.setIbaLo v).queue = c.queue := rfl
@[simp] theorem Ctl.setIbaLo_pending (c : Ctl) (v : Word) : (c.setIbaLo v).pending = c.pending := rfl
@[simp] theorem Ctl.setIbaLo_timers (c : Ctl) (v : Word) : (c.setIbaLo v).timers = c.timers := rfl
@[simp] theorem Ctl.setIbaLo_stats (c : Ctl) (v : Word) : (c.setIbaLo v).stats = c.stats := rfl
@[simp] theorem Ctl.setIbaLo_hung (c : Ctl) (v : Word) : (c.setIbaLo v).hung = c.hung := rfl
@[simp] theorem Ctl.setIba_mode (c : Ctl) (v : Addr) : (c.setIba v).mode = c.mode := rfl
@[simp] theorem Ctl.setIba_classic (c : Ctl) (v : Addr) : (c.setIba v).classic = c.classic := rfl
@[simp] theorem Ctl.setIba_rxSubscribed (c : Ctl) (v : Addr) : (c.setIba v).rxSubscribed = c.rxSubscribed := rfl
@[simp] theorem Ctl.setIba_tx (c : Ctl) (v : Addr) : (c.setIba v).tx = c.tx := rfl
@[simp] theorem Ctl.setIba_srr (c : Ctl) (v : Addr) : (c.setIba v).turbo.srr = c.turbo.srr := rfl
@[simp] theorem Ctl.setIba_icrEn (c : Ctl) (v : Addr) : (c.setIba v).turbo.icrEn = c.turbo.icrEn := rfl
@[simp] theorem Ctl.setIba_ibaLo (c : Ctl) (v : Addr) : (c.setIba v).turbo.ibaLo = c.turbo.ibaLo := rfl
@[simp] theorem Ctl.setIba_iba (c : Ctl) (v : Addr) : (c.setIba v).turbo.iba = v := rfl
@[simp] theorem Ctl.setIba_rxRingBase (c : Ctl) (v : Addr) : (c.setIba v).turbo.rxRingBase = c.turbo.rxRingBase := rfl
@[simp] theorem Ctl.setIba_txRingBase (c : Ctl) (v : Addr) : (c.setIba v).turbo.txRingBase = c.turbo.txRingBase := rfl
@[simp] theorem Ctl.setIba_rxIdx (c : Ctl) (v : Addr) : (c.setIba v).turbo.rxIdx = c.turbo.rxIdx := rfl
@[simp] theorem Ctl.setIba_txIdx (c : Ctl) (v : Addr) : (c.setIba v).turbo.txIdx = c.turbo.txIdx := rfl
@[simp] theorem Ctl.setIba_ringsStarted (c : Ctl) (v : Addr) : (c.setIba v).turbo.ringsStarted = c.turbo.ringsStarted := rfl
@[simp] theorem Ctl.setIba_tlatch (c : Ctl) (v : Addr) : (c.setIba v).turbo.tlatch = c.turbo.tlatch := rfl
@[simp] theorem Ctl.setIba_init (c : Ctl) (v : Addr) : (c.setIba v).init = c.init := rfl
@[simp] theorem Ctl.setIba_setup (c : Ctl) (v : Addr) : (c.setIba v).setup = c.setup := rfl
@[simp] theorem Ctl.setIba_queue (c : Ctl) (v : Addr) : (c.setIba v).queue = c.queue := rfl
@[simp] theorem Ctl.setIba_pending (c : Ctl) (v : Addr) : (c.setIba v).pending = c.pending := rfl
@[simp] theorem Ctl.setIba_timers (c : Ctl) (v : Addr) : (c.setIba v).timers = c.timers := rfl
@[simp] theorem Ctl.setIba_stats (c : Ctl) (v : Addr) : (c.setIba v).stats = c.stats := rfl
@[simp] theorem Ctl.setIba_hung (c : Ctl) (v : Addr) : (c.setIba v).hung = c.hung := rfl
@[simp] theorem Ctl.setRingBases_mode (c : Ctl) (rx tx : Addr) : (c.setRingBases rx tx).mode = c.mode := rfl
@[simp] theorem Ctl.setRingBases_classic (c : Ctl) (rx tx : Addr) : (c.setRingBases rx tx).classic = c.classic := rfl
@[simp] theorem Ctl.setRingBases_rxSubscribed (c : Ctl) (rx tx : Addr) : (c.setRingBases rx tx).rxSubscribed = c.rxSubscribed := rfl
@[simp] theorem Ctl.setRingBases_tx (c : Ctl) (rx tx : Addr) : (c.setRingBases rx tx).tx = c.tx := rfl
@[simp] theorem Ctl.setRingBases_srr (c : Ctl) (rx tx : Addr) : (c.setRingBases rx tx).turbo.srr = c.turbo.srr := rfl
@[simp] theorem Ctl.setRingBases_icrEn (c : Ctl) (rx tx : Addr) : (c.setRingBases rx tx).turbo.icrEn = c.turbo.icrEn := rfl
@[simp] theorem Ctl.setRingBases_ibaLo (c : Ctl) (rx tx : Addr) : (c.setRingBases rx tx).turbo.ibaLo = c.turbo.ibaLo := rfl
@[simp] theorem Ctl.setRingBases_iba (c : Ctl) (rx tx : Addr) : (c.setRingBases rx tx).turbo.iba = c.turbo.iba := rfl
@[simp] theorem Ctl.setRingBases_rxRingBase (c : Ctl) (rx tx : Addr) : (c.setRingBases rx tx).turbo.rxRingBase = rx := rfl
@[simp] theorem Ctl.setRingBases_txRingBase (c : Ctl) (rx tx : Addr) : (c.setRingBases rx tx).turbo.txRingBase = tx := rfl
@[simp] theorem Ctl.setRingBases_rxIdx (c : Ctl) (rx tx : Addr) : (c.setRingBases rx tx).turbo.rxIdx = c.turbo.rxIdx := rfl
@[simp] theorem Ctl.setRingBases_txIdx (c : Ctl) (rx tx : Addr) : (c.setRingBases rx tx).turbo.txIdx = c.turbo.txIdx := rfl
@[simp] theorem Ctl.setRingBases_ringsStarted (c : Ctl) (rx tx : Addr) : (c.setRingBases rx tx).turbo.ringsStarted = c.turbo.ringsStarted := rfl
@[simp] theorem Ctl.setRingBases_tlatch (c : Ctl) (rx tx : Addr) : (c.setRingBases rx tx).turbo.tlatch = c.turbo.tlatch := rfl
@[simp] theorem Ctl.setRingBases_init (c : Ctl) (rx tx : Addr) : (c.setRingBases rx tx).init = c.init := rfl
@[simp] theorem Ctl.setRingBases_setup (c : Ctl) (rx tx : Addr) : (c.setRingBases rx tx).setup = c.setup := rfl
@[simp] theorem Ctl.setRingBases_queue (c : Ctl) (rx tx : Addr) : (c.setRingBases rx tx).queue = c.queue := rfl
@[simp] theorem Ctl.setRingBases_pending (c : Ctl) (rx tx : Addr) : (c.setRingBases rx tx).pending = c.pending := rfl
@[simp] theorem Ctl.setRingBases_timers (c : Ctl) (rx tx : Addr) : (c.setRingBases rx tx).timers = c.timers := rfl
@[simp] theorem Ctl.setRingBases_stats (c : Ctl) (rx tx : Addr) : (c.setRingBases rx tx).stats = c.stats := rfl
@[simp] theorem Ctl.setRingBases_hung (c : Ctl) (rx tx : Addr) : (c.setRingBases rx tx).hung = c.hung := rfl
@[simp] theorem Ctl.setRxIdx_mode (c : Ctl) (v : Nat) : (c.setRxIdx v).mode = c.mode := rfl
@[simp] theorem Ctl.setRxIdx_classic (c : Ctl) (v : Nat) : (c.setRxIdx v).classic = c.classic := rfl
@[simp] theorem Ctl.setRxIdx_rxSubscribed (c : Ctl) (v : Nat) : (c.setRxIdx v).rxSubscribed = c.rxSubscribed := rfl
@[simp] theorem Ctl.setRxIdx_tx (c : Ctl) (v : Nat) : (c.setRxIdx v).tx = c.tx := rfl
@[simp] theorem Ctl.setRxIdx_srr (c : Ctl) (v : Nat) : (c.setRxIdx v).turbo.srr = c.turbo.srr := rfl
@[simp] theorem Ctl.setRxIdx_icrEn (c : Ctl) (v : Nat) : (c.setRxIdx v).turbo.icrEn = c.turbo.icrEn := rfl
@[simp] theorem Ctl.setRxIdx_ibaLo (c : Ctl) (v : Nat) : (c.setRxIdx v).turbo.ibaLo = c.turbo.ibaLo := rfl
@[simp] theorem Ctl.setRxIdx_iba (c : Ctl) (v : Nat) : (c.setRxIdx v).turbo.iba = c.turbo.iba := rfl
@[simp] theorem Ctl.setRxIdx_rxRingBase (c : Ctl) (v : Nat) : (c.setRxIdx v).turbo.rxRingBase = c.turbo.rxRingBase := rfl
@[simp] theorem Ctl.setRxIdx_txRingBase (c : Ctl) (v : Nat) : (c.setRxIdx v).turbo.txRingBase = c.turbo.txRingBase := rfl
@[simp] theorem Ctl.setRxIdx_rxIdx (c : Ctl) (v : Nat) : (c.setRxIdx v).turbo.rxIdx = v := rfl
@[simp] theorem Ctl.setRxIdx_txIdx (c : Ctl) (v : Nat) : (c.setRxIdx v).turbo.txIdx = c.turbo.txIdx := rfl
@[simp] theorem Ctl.setRxIdx_ringsStarted (c : Ctl) (v : Nat) : (c.setRxIdx v).turbo.ringsStarted = c.turbo.ringsStarted := rfl
@[simp] theorem Ctl.setRxIdx_tlatch (c : Ctl) (v : Nat) : (c.setRxIdx v).turbo.tlatch = c.turbo.tlatch := rfl
@[simp] theorem Ctl.setRxIdx_init (c : Ctl) (v : Nat) : (c.setRxIdx v).init = c.init := rfl
@[simp] theorem Ctl.setRxIdx_setup (c : Ctl) (v : Nat) : (c.setRxIdx v).setup = c.setup := rfl
@[simp] theorem Ctl.setRxIdx_queue (c : Ctl) (v : Nat) : (c.setRxIdx v).queue = c.queue := rfl
@[simp] theorem Ctl.setRxIdx_pending (c : Ctl) (v : Nat) : (c.setRxIdx v).pending = c.pending := rfl
@[simp] theorem Ctl.setRxIdx_timers (c : Ctl) (v : Nat) : (c.setRxIdx v).timers = c.timers := rfl
@[simp] theorem Ctl.setRxIdx_stats (c : Ctl) (v : Nat) : (c.setRxIdx v).stats = c.stats := rfl
@[simp] theorem Ctl.setRxIdx_hung (c : Ctl) (v : Nat) : (c.setRxIdx v).hung = c.hung := rfl
@[simp] theorem Ctl.setTxIdx_mode (c : Ctl) (v : Nat) : (c.setTxIdx v).mode = c.mode := rfl
@[simp] theorem Ctl.setTxIdx_classic (c : Ctl) (v : Nat) : (c.setTxIdx v).classic = c.classic := rfl
@[simp] theorem Ctl.setTxIdx_rxSubscribed (c : Ctl) (v : Nat) : (c.setTxIdx v).rxSubscribed = c.rxSubscribed := rfl
@[simp] theorem Ctl.setTxIdx_tx (c : Ctl) (v : Nat) : (c.setTxIdx v).tx = c.tx := rfl
@[simp] theorem Ctl.setTxIdx_srr (c : Ctl) (v : Nat) : (c.setTxIdx v).turbo.srr = c.turbo.srr := rfl
@[simp] theorem Ctl.setTxIdx_icrEn (c : Ctl) (v : Nat) : (c.setTxIdx v).turbo.icrEn = c.turbo.icrEn := rfl
@[simp] theorem Ctl.setTxIdx_ibaLo (c : Ctl) (v : Nat) : (c.setTxIdx v).turbo.ibaLo = c.turbo.ibaLo := rfl
@[simp] theorem Ctl.setTxIdx_iba (c : Ctl) (v : Nat) : (c.setTxIdx v).turbo.iba = c.turbo.iba := rfl
@[simp] theorem Ctl.setTxIdx_rxRingBase (c : Ctl) (v : Nat) : (c.setTxIdx v).turbo.rxRingBase = c.turbo.rxRingBase := rfl
@[simp] theorem Ctl.setTxIdx_txRingBase (c : Ctl) (v : Nat) : (c.setTxIdx v).turbo.txRingBase = c.turbo.txRingBase := rfl
@[simp] theorem Ctl.setTxIdx_rxIdx (c : Ctl) (v : Nat) : (c.setTxIdx v).turbo.rxIdx = c.turbo.rxIdx := rfl
@[simp] theorem Ctl.setTxIdx_txIdx (c : Ctl) (v : Nat) : (c.setTxIdx v).turbo.txIdx = v := rfl
@[simp] theorem Ctl.setTxIdx_ringsStarted (c : Ctl) (v : Nat) : (c.setTxIdx v).turbo.ringsStarted = c.turbo.ringsStarted := rfl
@[simp] theorem Ctl.setTxIdx_tlatch (c : Ctl) (v : Nat) : (c.setTxIdx v).turbo.tlatch = c.turbo.tlatch := rfl
@[simp] theorem Ctl.setTxIdx_init (c : Ctl) (v : Nat) : (c.setTxIdx v).init = c.init := rfl
@[simp] theorem Ctl.setTxIdx_setup (c : Ctl) (v : Nat) : (c.setTxIdx v).setup = c.setup := rfl
@[simp] theorem Ctl.setTxIdx_queue (c : Ctl) (v : Nat) : (c.setTxIdx v).queue = c.queue := rfl
@[simp] theorem Ctl.setTxIdx_pending (c : Ctl) (v : Nat) : (c.setTxIdx v).pending = c.pending := rfl
@[simp] theorem Ctl.setTxIdx_timers (c : Ctl) (v : Nat) : (c.setTxIdx v).timers = c.timers := rfl
@[simp] theorem Ctl.setTxIdx_stats (c : Ctl) (v : Nat) : (c.setTxIdx v).stats = c.stats := rfl
@[simp] theorem Ctl.setTxIdx_hung (c : Ctl) (v : Nat) : (c.setTxIdx v).hung = c.hung := rfl
@[simp] theorem Ctl.setRingsStarted_mode (c : Ctl) (v : Bool) : (c.setRingsStarted v).mode = c.mode := rfl
@[simp] theorem Ctl.setRingsStarted_classic (c : Ctl) (v : Bool) : (c.setRingsStarted v).classic = c.classic := rfl
@[simp] theorem Ctl.setRingsStarted_rxSubscribed (c : Ctl) (v : Bool) : (c.setRingsStarted v).rxSubscribed = c.rxSubscribed := rfl
@[simp] theorem Ctl.setRingsStarted_tx (c : Ctl) (v : Bool) : (c.setRingsStarted v).tx = c.tx := rfl
@[simp] theorem Ctl.setRingsStarted_srr (c : Ctl) (v : Bool) : (c.setRingsStarted v).turbo.srr = c.turbo.srr := rfl
@[simp] theorem Ctl.setRingsStarted_icrEn (c : Ctl) (v : Bool) : (c.setRingsStarted v).turbo.icrEn = c.turbo.icrEn := rfl
@[simp] theorem Ctl.setRingsStarted_ibaLo (c : Ctl) (v : Bool) : (c.setRingsStarted v).turbo.ibaLo = c.turbo.ibaLo := rfl
@[simp] theorem Ctl.setRingsStarted_iba (c : Ctl) (v : Bool) : (c.setRingsStarted v).turbo.iba = c.turbo.iba := rfl
@[simp] theorem Ctl.setRingsStarted_rxRingBase (c : Ctl) (v : Bool) : (c.setRingsStarted v).turbo.rxRingBase = c.turbo.rxRingBase := rfl
@[simp] theorem Ctl.setRingsStarted_txRingBase (c : Ctl) (v : Bool) : (c.setRingsStarted v).turbo.txRingBase = c.turbo.txRingBase := rfl
@[simp] theorem Ctl.setRingsStarted_rxIdx (c : Ctl) (v : Bool) : (c.setRingsStarted v).turbo.rxIdx = c.turbo.rxIdx := rfl
@[simp] theorem Ctl.setRingsStarted_txIdx (c : Ctl) (v : Bool) : (c.setRingsStarted v).turbo.txIdx = c.turbo.txIdx := rfl
@[simp] theorem Ctl.setRingsStarted_ringsStarted (c : Ctl) (v : Bool) : (c.setRingsStarted v).turbo.ringsStarted = v := rfl
@[simp] theorem Ctl.setRingsStarted_tlatch (c : Ctl) (v : Bool) : (c.setRingsStarted v).turbo.tlatch = c.turbo.tlatch := rfl
@[simp] theorem Ctl.setRingsStarted_init (c : Ctl) (v : Bool) : (c.setRingsStarted v).init = c.init := rfl
@[simp] theorem Ctl.setRingsStarted_setup (c : Ctl) (v : Bool) : (c.setRingsStarted v).setup = c.setup := rfl
@[simp] theorem Ctl.setRingsStarted_queue (c : Ctl) (v : Bool) : (c.setRingsStarted v).queue = c.queue := rfl
@[simp] theorem Ctl.setRingsStarted_pending (c : Ctl) (v : Bool) : (c.setRingsStarted v).pending = c.pending := rfl
@[simp] theorem Ctl.setRingsStarted_timers (c : Ctl) (v : Bool) : (c.setRingsStarted v).timers = c.timers := rfl
@[simp] theorem Ctl.setRingsStarted_stats (c : Ctl) (v : Bool) : (c.setRingsStarted v).stats = c.stats := rfl
@[simp] theorem Ctl.setRingsStarted_hung (c : Ctl) (v : Bool) : (c.setRingsStarted v).hung = c.hung := rfl
@[simp] theorem Ctl.setTlatch_mode (c : Ctl) (v : Bool) : (c.setTlatch v).mode = c.mode := rfl
@[simp] theorem Ctl.setTlatch_classic (c : Ctl) (v : Bool) : (c.setTlatch v).classic = c.classic := rfl
@[simp] theorem Ctl.setTlatch_rxSubscribed (c : Ctl) (v : Bool) : (c.setTlatch v).rxSubscribed = c.rxSubscribed := rfl
@[simp] theorem Ctl.setTlatch_tx (c : Ctl) (v : Bool) : (c.setTlatch v).tx = c.tx := rfl
@[simp] theorem Ctl.setTlatch_srr (c : Ctl) (v : Bool) : (c.setTlatch v).turbo.srr = c.turbo.srr := rfl
@[simp] theorem Ctl.setTlatch_icrEn (c : Ctl) (v : Bool) : (c.setTlatch v).turbo.icrEn = c.turbo.icrEn := rfl
@[simp] theorem Ctl.setTlatch_ibaLo (c : Ctl) (v : Bool) : (c.setTlatch v).turbo.ibaLo = c.turbo.ibaLo := rfl
@[simp] theorem Ctl.setTlatch_iba (c : Ctl) (v : Bool) : (c.setTlatch v).turbo.iba = c.turbo.iba := rfl
@[simp] theorem Ctl.setTlatch_rxRingBase (c : Ctl) (v : Bool) : (c.setTlatch v).turbo.rxRingBase = c.turbo.rxRingBase := rfl
@[simp] theorem Ctl.setTlatch_txRingBase (c : Ctl) (v : Bool) : (c.setTlatch v).turbo.txRingBase = c.turbo.txRingBase := rfl
@[simp] theorem Ctl.setTlatch_rxIdx (c : Ctl) (v : Bool) : (c.setTlatch v).turbo.rxIdx = c.turbo.rxIdx := rfl
@[simp] theorem Ctl.setTlatch_txIdx (c : Ctl) (v : Bool) : (c.setTlatch v).turbo.txIdx = c.turbo.txIdx := rfl
@[simp] theorem Ctl.setTlatch_ringsStarted (c : Ctl) (v : Bool) : (c.setTlatch v).turbo.ringsStarted = c.turbo.ringsStarted := rfl
@[simp] theorem Ctl.setTlatch_tlatch (c : Ctl) (v : Bool) : (c.setTlatch v).turbo.tlatch = v := rfl
@[simp] theorem Ctl.setTlatch_init (c : Ctl) (v : Bool) : (c.setTlatch v).init = c.init := rfl
@[simp] theorem Ctl.setTlatch_setup (c : Ctl) (v : Bool) : (c.setTlatch v).setup = c.setup := rfl
@[simp] theorem Ctl.setTlatch_queue (c : Ctl) (v : Bool) : (c.setTlatch v).queue = c.queue := rfl
@[simp] theorem Ctl.setTlatch_pending (c : Ctl) (v : Bool) : (c.setTlatch v).pending = c.pending := rfl
@[simp] theorem Ctl.setTlatch_timers (c : Ctl) (v : Bool) : (c.setTlatch v).timers = c.timers := rfl
@[simp] theorem Ctl.setTlatch_stats (c : Ctl) (v : Bool) : (c.setTlatch v).stats = c.stats := rfl
@[simp] theorem Ctl.setTlatch_hung (c : Ctl) (v : Bool) : (c.setTlatch v).hung = c.hung := rfl
@[simp] theorem Ctl.setTurbo_mode (c : Ctl) (v : Turbo) : (c.setTurbo v).mode = c.mode := rfl
@[simp] theorem Ctl.setTurbo_classic (c : Ctl) (v : Turbo) : (c.setTurbo v).classic = c.classic := rfl
@[simp] theorem Ctl.setTurbo_rxSubscribed (c : Ctl) (v : Turbo) : (c.setTurbo v).rxSubscribed = c.rxSubscribed := rfl
@[simp] theorem Ctl.setTurbo_tx (c : Ctl) (v : Turbo) : (c.setTurbo v).tx = c.tx := rfl
@[simp] theorem Ctl.setTurbo_turbo (c : Ctl) (v : Turbo) : (c.setTurbo v).turbo = v := rfl
@[simp] theorem Ctl.setTurbo_init (c : Ctl) (v : Turbo) : (c.setTurbo v).init = c.init := rfl
@[simp] theorem Ctl.setTurbo_setup (c : Ctl) (v : Turbo) : (c.setTurbo v).setup = c.setup := rfl
@[simp] theorem Ctl.setTurbo_queue (c : Ctl) (v : Turbo) : (c.setTurbo v).queue = c.queue := rfl
@[simp] theorem Ctl.setTurbo_pending (c : Ctl) (v : Turbo) : (c.setTurbo v).pending = c.pending := rfl
@[simp] theorem Ctl.setTurbo_timers (c : Ctl) (v : Turbo) : (c.setTurbo v).timers = c.timers := rfl
@[simp] theorem Ctl.setTurbo_stats (c : Ctl) (v : Turbo) : (c.setTurbo v).stats = c.stats := rfl
@[simp] theorem Ctl.setTurbo_hung (c : Ctl) (v : Turbo) : (c.setTurbo v).hung = c.hung := rfl
@[simp] theorem Ctl.setInit_mode (c : Ctl) (v : InitBlock) : (c.setInit v).mode = c.mode := rfl
@[simp] theorem Ctl.setInit_classic (c : Ctl) (v : InitBlock) : (c.setInit v).classic = c.classic := rfl
@[simp] theorem Ctl.setInit_rxSubscribed (c : Ctl) (v : InitBlock) : (c.setInit v).rxSubscribed = c.rxSubscribed := rfl
@[simp] theorem Ctl.setInit_tx (c : Ctl) (v : InitBlock) : (c.setInit v).tx = c.tx := rfl
@[simp] theorem Ctl.setInit_turbo (c : Ctl) (v : InitBlock) : (c.setInit v).turbo = c.turbo := rfl
@[simp] theorem Ctl.setInit_init (c : Ctl) (v : InitBlock) : (c.setInit v).init = v := rfl
@[simp] theorem Ctl.setInit_setup (c : Ctl) (v : InitBlock) : (c.setInit v).setup = c.setup := rfl
@[simp] theorem Ctl.setInit_queue (c : Ctl) (v : InitBlock) : (c.setInit v).queue = c.queue := rfl
@[simp] theorem Ctl.setInit_pending (c : Ctl) (v : InitBlock) : (c.setInit v).pending = c.pending := rfl
@[simp] theorem Ctl.setInit_timers (c : Ctl) (v : InitBlock) : (c.setInit v).timers = c.timers := rfl
@[simp] theorem Ctl.setInit_stats (c : Ctl) (v : InitBlock) : (c.setInit v).stats = c.stats := rfl
@[simp] theorem Ctl.setInit_hung (c : Ctl) (v : InitBlock) : (c.setInit v).hung = c.hung := rfl
@[simp] theorem Ctl.setSetup_mode (c : Ctl) (v : Setup) : (c.setSetup v).mode = c.mode := rfl
@[simp] theorem Ctl.setSetup_classic (c : Ctl) (v : Setup) : (c.setSetup v).classic = c.classic := rfl
@[simp] theorem Ctl.setSetup_rxSubscribed (c : Ctl) (v : Setup) : (c.setSetup v).rxSubscribed = c.rxSubscribed := rfl
@[simp] theorem Ctl.setSetup_tx (c : Ctl) (v : Setup) : (c.setSetup v).tx = c.tx := rfl
@[simp] theorem Ctl.setSetup_turbo (c : Ctl) (v : Setup) : (c.setSetup v).turbo = c.turbo := rfl
@[simp] theorem Ctl.setSetup_init (c : Ctl) (v : Setup) : (c.setSetup v).init = c.init := rfl
@[simp] theorem Ctl.setSetup_setup (c : Ctl) (v : Setup) : (c.setSetup v).setup = v := rfl
@[simp] theorem Ctl.setSetup_queue (c : Ctl) (v : Setup) : (c.setSetup v).queue = c.queue := rfl
@[simp] theorem Ctl.setSetup_pending (c : Ctl) (v : Setup) : (c.setSetup v).pending = c.pending := rfl
@[simp] theorem Ctl.setSetup_timers (c : Ctl) (v : Setup) : (c.setSetup v).timers = c.timers := rfl
@[simp] theorem Ctl.setSetup_stats (c : Ctl) (v : Setup) : (c.setSetup v).stats = c.stats := rfl
@[simp] theorem Ctl.setSetup_hung (c : Ctl) (v : Setup) : (c.setSetup v).hung = c.hung := rfl
@[simp] theorem Ctl.setQueue_mode (c : Ctl) (v : ReadQueue) : (c.setQueue v).mode = c.mode := rfl
@[simp] theorem Ctl.setQueue_classic (c : Ctl) (v : ReadQueue) : (c.setQueue v).classic = c.classic := rfl
@[simp] theorem Ctl.setQueue_rxSubscribed (c : Ctl) (v : ReadQueue) : (c.setQueue v).rxSubscribed = c.rxSubscribed := rfl
@[simp] theorem Ctl.setQueue_tx (c : Ctl) (v : ReadQueue) : (c.setQueue v).tx = c.tx := rfl
@[simp] theorem Ctl.setQueue_turbo (c : Ctl) (v : ReadQueue) : (c.setQueue v).turbo = c.turbo := rfl
@[simp] theorem Ctl.setQueue_init (c : Ctl) (v : ReadQueue) : (c.setQueue v).init = c.init := rfl
@[simp] theorem Ctl.setQueue_setup (c : Ctl) (v : ReadQueue) : (c.setQueue v).setup = c.setup := rfl
@[simp] theorem Ctl.setQueue_queue (c : Ctl) (v : ReadQueue) : (c.setQueue v).queue = v := rfl
@[simp] theorem Ctl.setQueue_pending (c : Ctl) (v : ReadQueue) : (c.setQueue v).pending = c.pending := rfl
@[simp] theorem Ctl.setQueue_timers (c : Ctl) (v : ReadQueue) : (c.setQueue v).timers = c.timers := rfl
@[simp] theorem Ctl.setQueue_stats (c : Ctl) (v : ReadQueue) : (c.setQueue v).stats = c.stats := rfl
@[simp] theorem Ctl.setQueue_hung (c : Ctl) (v : ReadQueue) : (c.setQueue v).hung = c.hung := rfl
@[simp] theorem Ctl.setPending_mode (c : Ctl) (v : Bool) : (c.setPending v).mode = c.mode := rfl
@[simp] theorem Ctl.setPending_classic (c : Ctl) (v : Bool) : (c.setPending v).classic = c.classic := rfl
@[simp] theorem Ctl.setPending_rxSubscribed (c : Ctl) (v : Bool) : (c.setPending v).rxSubscribed = c.rxSubscribed := rfl
@[simp] theorem Ctl.setPending_tx (c : Ctl) (v : Bool) : (c.setPending v).tx = c.tx := rfl
@[simp] theorem Ctl.setPending_turbo (c : Ctl) (v : Bool) : (c.setPending v).turbo = c.turbo := rfl
@[simp] theorem Ctl.setPending_init (c : Ctl) (v : Bool) : (c.setPending v).init = c.init := rfl
@[simp] theorem Ctl.setPending_setup (c : Ctl) (v : Bool) : (c.setPending v).setup = c.setup := rfl
@[simp] theorem Ctl.setPending_queue (c : Ctl) (v : Bool) : (c.setPending v).queue = c.queue := rfl
@[simp] theorem Ctl.setPending_pending (c : Ctl) (v : Bool) : (c.setPending v).pending = v := rfl
@[simp] theorem Ctl.setPending_timers (c : Ctl) (v : Bool) : (c.setPending v).timers = c.timers := rfl
@[simp] theorem Ctl.setPending_stats (c : Ctl) (v : Bool) : (c.setPending v).stats = c.stats := rfl
@[simp] theorem Ctl.setPending_hung (c : Ctl) (v : Bool) : (c.setPending v).hung = c.hung := rfl
@[simp] theorem Ctl.setTimers_mode (c : Ctl) (v : Timers) : (c.setTimers v).mode = c.mode := rfl
@[simp] theorem Ctl.setTimers_classic (c : Ctl) (v : Timers) : (c.setTimers v).classic = c.classic := rfl
@[simp] theorem Ctl.setTimers_rxSubscribed (c : Ctl) (v : Timers) : (c.setTimers v).rxSubscribed = c.rxSubscribed := rfl
@[simp] theorem Ctl.setTimers_tx (c : Ctl) (v : Timers) : (c.setTimers v).tx = c.tx := rfl
@[simp] theorem Ctl.setTimers_turbo (c : Ctl) (v : Timers) : (c.setTimers v).turbo = c.turbo := rfl
@[simp] theorem Ctl.setTimers_init (c : Ctl) (v : Timers) : (c.setTimers v).init = c.init := rfl
@[simp] theorem Ctl.setTimers_setup (c : Ctl) (v : Timers) : (c.setTimers v).setup = c.setup := rfl
@[simp] theorem Ctl.setTimers_queue (c : Ctl) (v : Timers) : (c.setTimers v).queue = c.queue := rfl
@[simp] theorem Ctl.setTimers_pending (c : Ctl) (v : Timers) : (c.setTimers v).pending = c.pending := rfl
@[simp] theorem Ctl.setTimers_timers (c : Ctl) (v : Timers) : (c.setTimers v).timers = v := rfl
@[simp] theorem Ctl.setTimers_stats (c : Ctl) (v : Timers) : (c.setTimers v).stats = c.stats := rfl
@[simp] theorem Ctl.setTimers_hung (c : Ctl) (v : Timers) : (c.setTimers v).hung = c.hung := rfl
@[simp] theorem Ctl.setStats_mode (c : Ctl) (v : Stats) : (c.setStats v).mode = c.mode := rfl
@[simp] theorem Ctl.setStats_classic (c : Ctl) (v : Stats) : (c.setStats v).classic = c.classic := rfl
@[simp] theorem Ctl.setStats_rxSubscribed (c : Ctl) (v : Stats) : (c.setStats v).rxSubscribed = c.rxSubscribed := rfl
@[simp] theorem Ctl.setStats_tx (c : Ctl) (v : Stats) : (c.setStats v).tx = c.tx := rfl
@[simp] theorem Ctl.setStats_turbo (c : Ctl) (v : Stats) : (c.setStats v).turbo = c.turbo := rfl
@[simp] theorem Ctl.setStats_init (c : Ctl) (v : Stats) : (c.setStats v).init = c.init := rfl
@[simp] theorem Ctl.setStats_setup (c : Ctl) (v : Stats) : (c.setStats v).setup = c.setup := rfl
@[simp] theorem Ctl.setStats_queue (c : Ctl) (v : Stats) : (c.setStats v).queue = c.queue := rfl
@[simp] theorem Ctl.setStats_pending (c : Ctl) (v : Stats) : (c.setStats v).pending = c.pending := rfl
@[simp] theorem Ctl.setStats_timers (c : Ctl) (v : Stats) : (c.setStats v).timers = c.timers := rfl
@[simp] theorem Ctl.setStats_stats (c : Ctl) (v : Stats) : (c.setStats v).stats = v := rfl
@[simp] theorem Ctl.setStats_hung (c : Ctl) (v : Stats) : (c.setStats v).hung = c.hung := rfl
@[simp] theorem Ctl.setHung_mode (c : Ctl) (v : Bool) : (c.setHung v).mode = c.mode := rfl
@[simp] theorem Ctl.setHung_classic (c : Ctl) (v : Bool) : (c.setHung v).classic = c.classic := rfl
@[simp] theorem Ctl.setHung_rxSubscribed (c : Ctl) (v : Bool) : (c.setHung v).rxSubscribed = c.rxSubscribed := rfl
@[simp] theorem Ctl.setHung_tx (c : Ctl) (v : Bool) : (c.setHung v).tx = c.tx := rfl
@[simp] theorem Ctl.setHung_turbo (c : Ctl) (v : Bool) : (c.setHung v).turbo = c.turbo := rfl
@[simp] theorem Ctl.setHung_init (c : Ctl) (v : Bool) : (c.setHung v).init = c.init := rfl
@[simp] theorem Ctl.setHung_setup (c : Ctl) (v : Bool) : (c.setHung v).setup = c.setup := rfl
@[simp] theorem Ctl.setHung_queue (c : Ctl) (v : Bool) : (c.setHung v).queue = c.queue := rfl
@[simp] theorem Ctl.setHung_pending (c : Ctl) (v : Bool) : (c.setHung v).pending = c.pending := rfl
@[simp] theorem Ctl.setHung_timers (c : Ctl) (v : Bool) : (c.setHung v).timers = c.timers := rfl
@[simp] theorem Ctl.setHung_stats (c : Ctl) (v : Bool) : (c.setHung v).stats = c.stats := rfl
@[simp] theorem Ctl.setHung_hung (c : Ctl) (v : Bool) : (c.setHung v).hung = v := rfl

end Sys2Proof.Machine
end

