-- ==== Sys2Proof/Laws/Memory.lean ====
section
/-! SUPPORT. Guest memory: a write gives what it wrote and leaves every other byte, and every write keeps the canonical form. -/

namespace Sys2Proof.Machine

theorem Memory.wf_nil : Memory.wf [] = true := by decide

theorem Memory.wf_cons {k : Nat} {v : Byte} {rest : List Host.Cell} :
    Memory.wf ((k, v) :: rest) = true ↔
      (∀ c ∈ rest, k < c.1) ∧ v ≠ 0 ∧ Memory.wf rest = true := by
  simp only [Memory.wf, List.pairwise_cons, List.all_cons, Bool.and_eq_true, decide_eq_true_eq, bne_iff_ne]
  tauto

/-- Below its first address a memory in canonical form reads 0. -/
theorem Memory.get_of_lt {m : List Host.Cell} {a : Nat} (h : ∀ c ∈ m, a < c.1) : Memory.get m a = 0 := by
  induction m with
  | nil => rfl
  | cons c rest ih =>
    have hc := h c (by simp)
    simp only [Memory.get]
    rw [if_neg (by omega)]
    exact ih fun d hd => h d (by simp [hd])

/-- The addresses of a memory after a write are the old ones and the written one. -/
theorem Memory.mem_put {m : List Host.Cell} {a : Nat} {b : Byte} {c : Host.Cell} (h : c ∈ Memory.put m a b) :
    c ∈ m ∨ c = (a, b) := by
  induction m with
  | nil =>
    simp only [Memory.put] at h
    split at h <;> simp_all
  | cons d rest ih =>
    obtain ⟨k, v⟩ := d
    simp only [Memory.put] at h
    split at h
    · split at h
      · exact .inl h
      · simp only [List.mem_cons] at h ⊢
        tauto
    · split at h
      · split at h
        · exact .inl (by simp [h])
        · simp only [List.mem_cons] at h ⊢
          tauto
      · simp only [List.mem_cons] at h ⊢
        rcases h with h | h
        · tauto
        · rcases ih h with h | h <;> tauto

/-- Every byte write keeps the canonical form. -/
theorem Memory.put_wf {m : List Host.Cell} {a : Nat} {b : Byte} (hm : Memory.wf m = true) :
    Memory.wf (Memory.put m a b) = true := by
  induction m with
  | nil =>
    simp only [Memory.put]
    split
    · exact Memory.wf_nil
    · exact Memory.wf_cons.2 ⟨by simp, by assumption, Memory.wf_nil⟩
  | cons d rest ih =>
    obtain ⟨k, v⟩ := d
    obtain ⟨h1, h2, h4⟩ := Memory.wf_cons.1 hm
    simp only [Memory.put]
    split
    · split
      · exact hm
      · refine Memory.wf_cons.2 ⟨?_, by assumption, hm⟩
        intro c hc
        rcases List.mem_cons.1 hc with rfl | hc
        · assumption
        · have := h1 c hc; omega
    · split
      · subst a
        split
        · exact h4
        · exact Memory.wf_cons.2 ⟨h1, by assumption, h4⟩
      · refine Memory.wf_cons.2 ⟨?_, h2, ih h4⟩
        intro c hc
        rcases Memory.mem_put hc with hc | rfl
        · exact h1 c hc
        · simp only; omega

/-- Reading after a write: the written byte at its address, the old byte at every other. -/
theorem Memory.get_put {m : List Host.Cell} {a : Nat} {b : Byte} (hm : Memory.wf m = true) (c : Nat) :
    Memory.get (Memory.put m a b) c = if c = a then b else Memory.get m c := by
  induction m with
  | nil =>
    simp only [Memory.put]
    by_cases hb : b = 0
    · rw [if_pos hb]; subst hb; simp [Memory.get]
    · rw [if_neg hb]; simp only [Memory.get, eq_comm (a := a)]
  | cons d rest ih =>
    obtain ⟨k, v⟩ := d
    obtain ⟨h1, h2, h4⟩ := Memory.wf_cons.1 hm
    simp only [Memory.put]
    split
    · rename_i hak
      split
      · rename_i hb
        subst hb
        split
        · rename_i hc
          subst hc
          refine Memory.get_of_lt fun x hx => ?_
          rcases List.mem_cons.1 hx with rfl | hx
          · exact hak
          · have := h1 x hx; omega
        · rfl
      · by_cases hc : c = a
        · subst hc; simp [Memory.get]
        · rw [if_neg hc]
          conv_lhs => rw [Memory.get]
          rw [if_neg (by omega)]
    · split
      · subst a
        split
        · rename_i hb
          subst hb
          by_cases hc : c = k
          · subst hc
            rw [if_pos rfl]
            exact Memory.get_of_lt h1
          · rw [if_neg hc]
            conv_rhs => rw [Memory.get]
            rw [if_neg (by omega)]
        · by_cases hc : c = k
          · subst hc; simp [Memory.get]
          · simp only [Memory.get, if_neg hc]
            rw [if_neg (by omega), if_neg (by omega)]
      · by_cases hc : k = c
        · subst hc
          simp only [Memory.get]
          rw [if_pos trivial, if_pos trivial, if_neg (by omega)]
        · simp only [Memory.get, if_neg hc]
          exact ih h4

/-! ### The state's memory -/

/-- A byte of the driver or the block changes guest memory only. -/
theorem State.putByte_eq (s : State) (a : Addr) (b : Byte) : s.putByte a b = s.setMem (s.putByte a b).mem := by
  unfold State.putByte
  cases locate s.cfg a <;> rfl

theorem State.putWord_eq (s : State) (a : Addr) (v : Word) : s.putWord a v = s.setMem (s.putWord a v).mem := by
  rw [State.putWord, State.putByte_eq (s.putByte a (lowByte v)), State.putByte_eq s]
  rfl

@[simp] theorem State.putByte_ctl (s : State) (a : Addr) (b : Byte) (i : Inst) : (s.putByte a b).ctl i = s.ctl i := by
  rw [State.putByte_eq, State.setMem_ctl]
@[simp] theorem State.putByte_i0 (s : State) (a : Addr) (b : Byte) : (s.putByte a b).i0 = s.i0 := by
  rw [State.putByte_eq, State.setMem_i0]
@[simp] theorem State.putByte_i1 (s : State) (a : Addr) (b : Byte) : (s.putByte a b).i1 = s.i1 := by
  rw [State.putByte_eq, State.setMem_i1]
@[simp] theorem State.putByte_count (s : State) (a : Addr) (b : Byte) : (s.putByte a b).count = s.count := by
  rw [State.putByte_eq, State.setMem_count]
@[simp] theorem State.putByte_line (s : State) (a : Addr) (b : Byte) : (s.putByte a b).line = s.line := by
  rw [State.putByte_eq, State.setMem_line]
@[simp] theorem State.putByte_fault (s : State) (a : Addr) (b : Byte) : (s.putByte a b).fault = s.fault := by
  rw [State.putByte_eq, State.setMem_fault]
@[simp] theorem State.putByte_refused (s : State) (a : Addr) (b : Byte) : (s.putByte a b).refused = s.refused := by
  rw [State.putByte_eq, State.setMem_refused]
@[simp] theorem State.putByte_refusals (s : State) (a : Addr) (b : Byte) : (s.putByte a b).refusals = s.refusals := by
  rw [State.putByte_eq, State.setMem_refusals]
@[simp] theorem State.putByte_draws (s : State) (a : Addr) (b : Byte) : (s.putByte a b).draws = s.draws := by
  rw [State.putByte_eq, State.setMem_draws]
@[simp] theorem State.putByte_inputs (s : State) (a : Addr) (b : Byte) : (s.putByte a b).inputs = s.inputs := by
  rw [State.putByte_eq, State.setMem_inputs]
@[simp] theorem State.putByte_yielded (s : State) (a : Addr) (b : Byte) : (s.putByte a b).yielded = s.yielded := by
  rw [State.putByte_eq, State.setMem_yielded]
@[simp] theorem State.putByte_concurrent (s : State) (a : Addr) (b : Byte) : (s.putByte a b).concurrent = s.concurrent := by
  rw [State.putByte_eq, State.setMem_concurrent]
@[simp] theorem State.putByte_trace (s : State) (a : Addr) (b : Byte) : (s.putByte a b).trace = s.trace := by
  rw [State.putByte_eq, State.setMem_trace]
@[simp] theorem State.putByte_events (s : State) (a : Addr) (b : Byte) : (s.putByte a b).events = s.events := by
  rw [State.putByte_eq, State.setMem_events]
@[simp] theorem State.putByte_cfg (s : State) (a : Addr) (b : Byte) : (s.putByte a b).cfg = s.cfg := by
  rw [State.putByte_eq, State.setMem_cfg]
@[simp] theorem State.putWord_ctl (s : State) (a : Addr) (b : Word) (i : Inst) : (s.putWord a b).ctl i = s.ctl i := by
  rw [State.putWord_eq, State.setMem_ctl]
@[simp] theorem State.putWord_i0 (s : State) (a : Addr) (b : Word) : (s.putWord a b).i0 = s.i0 := by
  rw [State.putWord_eq, State.setMem_i0]
@[simp] theorem State.putWord_i1 (s : State) (a : Addr) (b : Word) : (s.putWord a b).i1 = s.i1 := by
  rw [State.putWord_eq, State.setMem_i1]
@[simp] theorem State.putWord_count (s : State) (a : Addr) (b : Word) : (s.putWord a b).count = s.count := by
  rw [State.putWord_eq, State.setMem_count]
@[simp] theorem State.putWord_line (s : State) (a : Addr) (b : Word) : (s.putWord a b).line = s.line := by
  rw [State.putWord_eq, State.setMem_line]
@[simp] theorem State.putWord_fault (s : State) (a : Addr) (b : Word) : (s.putWord a b).fault = s.fault := by
  rw [State.putWord_eq, State.setMem_fault]
@[simp] theorem State.putWord_refused (s : State) (a : Addr) (b : Word) : (s.putWord a b).refused = s.refused := by
  rw [State.putWord_eq, State.setMem_refused]
@[simp] theorem State.putWord_refusals (s : State) (a : Addr) (b : Word) : (s.putWord a b).refusals = s.refusals := by
  rw [State.putWord_eq, State.setMem_refusals]
@[simp] theorem State.putWord_draws (s : State) (a : Addr) (b : Word) : (s.putWord a b).draws = s.draws := by
  rw [State.putWord_eq, State.setMem_draws]
@[simp] theorem State.putWord_inputs (s : State) (a : Addr) (b : Word) : (s.putWord a b).inputs = s.inputs := by
  rw [State.putWord_eq, State.setMem_inputs]
@[simp] theorem State.putWord_yielded (s : State) (a : Addr) (b : Word) : (s.putWord a b).yielded = s.yielded := by
  rw [State.putWord_eq, State.setMem_yielded]
@[simp] theorem State.putWord_concurrent (s : State) (a : Addr) (b : Word) : (s.putWord a b).concurrent = s.concurrent := by
  rw [State.putWord_eq, State.setMem_concurrent]
@[simp] theorem State.putWord_trace (s : State) (a : Addr) (b : Word) : (s.putWord a b).trace = s.trace := by
  rw [State.putWord_eq, State.setMem_trace]
@[simp] theorem State.putWord_events (s : State) (a : Addr) (b : Word) : (s.putWord a b).events = s.events := by
  rw [State.putWord_eq, State.setMem_events]
@[simp] theorem State.putWord_cfg (s : State) (a : Addr) (b : Word) : (s.putWord a b).cfg = s.cfg := by
  rw [State.putWord_eq, State.setMem_cfg]

theorem State.putByte_wf {s : State} {a : Addr} {b : Byte} (h : Memory.wf s.mem = true) :
    Memory.wf (s.putByte a b).mem = true := by
  unfold State.putByte
  split
  · exact Memory.put_wf h
  · exact h

theorem State.putWord_wf {s : State} {a : Addr} {v : Word} (h : Memory.wf s.mem = true) :
    Memory.wf (s.putWord a v).mem = true := State.putByte_wf (State.putByte_wf h)

/-- A region keeps its bytes inside its image. -/
theorem regionAt_mapped {r : Region} {a : Addr} {k : Nat} (h : regionAt r a = some k) :
    r.target ≤ k ∧ k < r.target + r.size := by
  unfold regionAt at h
  split at h
  · injection h with h; omega
  · cases h

/-- Where a bus address is kept is inside some region's image. -/
theorem locate_mapped {cfg : Config} {a : Addr} {k : Nat} (h : locate cfg a = some k) : mapped cfg k = true := by
  obtain ⟨r, hr, he⟩ := List.exists_of_findSome?_eq_some h
  have := regionAt_mapped he
  simp only [mapped, List.any_eq_true, Bool.and_eq_true, decide_eq_true_eq]
  exact ⟨r, hr, this⟩

/-- A byte write keeps the memory legal. -/
theorem State.putByte_memoryOk {s : State} {a : Addr} {b : Byte} (h : s.MemoryOk) : (s.putByte a b).MemoryOk := by
  refine ⟨State.putByte_wf h.1, ?_⟩
  rw [State.putByte_cfg]
  unfold State.putByte
  split
  · rename_i k hk
    intro c hc
    rcases Memory.mem_put hc with hc | rfl
    · exact h.2 c hc
    · exact locate_mapped hk
  · exact h.2

theorem State.putWord_memoryOk {s : State} {a : Addr} {v : Word} (h : s.MemoryOk) : (s.putWord a v).MemoryOk :=
  State.putByte_memoryOk (State.putByte_memoryOk h)

theorem State.wroteBytes_wf {bs : List Byte} {a : Addr} {s : State} (h : Memory.wf s.mem = true) :
    Memory.wf (State.wroteBytes a bs s).mem = true := by
  induction bs generalizing a s with
  | nil => exact h
  | cons b rest ih => exact ih (State.putByte_wf (s := s) h)

theorem State.putByte_of_some {s : State} {a : Addr} {b : Byte} {k : Nat} (h : locate s.cfg a = some k) :
    s.putByte a b = s.setMem (Memory.put s.mem k b) := by rw [State.putByte, h]

theorem State.putByte_of_none {s : State} {a : Addr} {b : Byte} (h : locate s.cfg a = none) : s.putByte a b = s := by
  rw [State.putByte, h]

/-- Reading after a byte write: the written byte wherever the guest's memory keeps it, the old byte elsewhere. -/
theorem State.byteAt_putByte {s : State} {a : Addr} {b : Byte} (h : Memory.wf s.mem = true) (c : Addr) :
    (s.putByte a b).byteAt c
      = if locate s.cfg c = locate s.cfg a ∧ backed s.cfg a = true then b else s.byteAt c := by
  cases ha : locate s.cfg a with
  | none => rw [State.putByte_of_none ha]; simp [backed, ha]
  | some k =>
    rw [State.putByte_of_some ha]
    cases hc : locate s.cfg c with
    | none => simp [State.byteAt, hc]
    | some j => simp [State.byteAt, hc, backed, ha, Memory.get_put h]

/-- A byte kept elsewhere is what it was. -/
theorem State.byteAt_putByte_other {s : State} {a : Addr} {b : Byte} (h : Memory.wf s.mem = true) {c : Addr}
    (hc : locate s.cfg c ≠ locate s.cfg a) : (s.putByte a b).byteAt c = s.byteAt c := by
  rw [State.byteAt_putByte h, if_neg (fun hh => hc hh.1)]

theorem State.byteAt_putWord_other {s : State} {a : Addr} {v : Word} (h : Memory.wf s.mem = true) {c : Addr}
    (h0 : locate s.cfg c ≠ locate s.cfg a) (h1 : locate s.cfg c ≠ locate s.cfg (a + 1)) :
    (s.putWord a v).byteAt c = s.byteAt c := by
  rw [State.putWord, State.byteAt_putByte_other (State.putByte_wf h) (by simpa using h1), State.byteAt_putByte_other h h0]

theorem wordOf_low_high (v : Word) : wordOf (highByte v) (lowByte v) = v := by
  apply BitVec.eq_of_getLsbD_eq
  intro n hn
  simp only [wordOf, highByte, lowByte, BitVec.getLsbD_append, BitVec.getLsbD_setWidth, BitVec.getLsbD_ushiftRight]
  by_cases h : n < 8
  · simp [h]
  · have h1 : n - 8 < 8 := by omega
    have h2 : 8 + (n - 8) = n := by omega
    simp [h, h1, h2]

/-- A word read at the address of a word write gives the word, where its two bytes are two of the guest's memory. -/
theorem State.wordAt_putWord_same {s : State} {a : Addr} {v : Word} (h : Memory.wf s.mem = true)
    (hb : wordBacked s.cfg a = true) (hd : locate s.cfg a ≠ locate s.cfg (a + 1)) : (s.putWord a v).wordAt a = v := by
  simp only [wordBacked, Bool.and_eq_true] at hb
  have h1 : (s.putWord a v).byteAt (a + 1) = highByte v := by
    rw [State.putWord, State.byteAt_putByte (State.putByte_wf h), State.putByte_cfg, if_pos ⟨rfl, hb.2⟩]
  have h0 : (s.putWord a v).byteAt a = lowByte v := by
    rw [State.putWord, State.byteAt_putByte_other (State.putByte_wf h) (by simpa using hd), State.byteAt_putByte h]
    simp [hb.1]
  rw [State.wordAt, h1, h0, wordOf_low_high]

/-- A word kept elsewhere is what it was. -/
theorem State.wordAt_putWord_other {s : State} {a c : Addr} {v : Word} (h : Memory.wf s.mem = true)
    (h0 : locate s.cfg c ≠ locate s.cfg a) (h1 : locate s.cfg c ≠ locate s.cfg (a + 1))
    (h2 : locate s.cfg (c + 1) ≠ locate s.cfg a) (h3 : locate s.cfg (c + 1) ≠ locate s.cfg (a + 1)) :
    (s.putWord a v).wordAt c = s.wordAt c := by
  rw [State.wordAt, State.byteAt_putWord_other h h2 h3, State.byteAt_putWord_other h h0 h1, State.wordAt]

/-! ### The driver's writes -/

/-- A property of the state that a byte write keeps is kept by a driver write. -/
theorem driverState_keeps {P : State → Prop} (h : ∀ s a b, P s → P (s.putByte a b)) {bs : List Byte} {a : Addr} {s : State}
    (hs : P s) : P (driverState a bs s) := by
  induction bs generalizing a s with
  | nil => exact hs
  | cons b rest ih => exact ih (h s a b hs)

/-- What lands the driver's writes keeps a property that a byte write and the list of those to come keep. -/
theorem landDue_keeps {P : State → Prop} (h : ∀ s a b, P s → P (s.putByte a b))
    (hc : ∀ s v, P s → P (s.setConcurrent v)) {l : List DriverWrite} {s : State} (hs : P s) : P (landDue l s) := by
  induction l generalizing s with
  | nil => exact hc s [] hs
  | cons w rest ih =>
    simp only [landDue]
    split
    · exact ih (driverState_keeps h hs)
    · exact hc s _ hs

theorem landList_keeps {P : State → Prop} (h : ∀ s a b, P s → P (s.putByte a b))
    (hc : ∀ s v, P s → P (s.setConcurrent v)) {l : List DriverWrite} {s : State} (hs : P s) : P (landList l s) := by
  induction l generalizing s with
  | nil => exact hc s [] hs
  | cons w rest ih => exact ih (driverState_keeps h hs)

/-- An access that no driver write is due before finds the state as it is. -/
theorem observe_of_nil {s : State} (h : s.concurrent = []) : observe s = s := by
  cases s
  simp only at h
  subst h
  rfl

theorem landAll_of_nil {s : State} (h : s.concurrent = []) : landAll s = s := by
  cases s
  simp only at h
  subst h
  rfl

@[simp] theorem landAll_concurrent (s : State) : (landAll s).concurrent = [] := by
  have : ∀ (l : List DriverWrite) (s : State), (landList l s).concurrent = [] := by
    intro l
    induction l with
    | nil => exact fun _ => rfl
    | cons w rest ih => exact fun s => ih _
  exact this _ s

@[simp] theorem observe_i0 (s : State) : (observe s).i0 = s.i0 :=
  landDue_keeps (P := fun t => t.i0 = s.i0) (by simp) (by simp) rfl
@[simp] theorem landAll_i0 (s : State) : (landAll s).i0 = s.i0 :=
  landList_keeps (P := fun t => t.i0 = s.i0) (by simp) (by simp) rfl
@[simp] theorem observe_i1 (s : State) : (observe s).i1 = s.i1 :=
  landDue_keeps (P := fun t => t.i1 = s.i1) (by simp) (by simp) rfl
@[simp] theorem landAll_i1 (s : State) : (landAll s).i1 = s.i1 :=
  landList_keeps (P := fun t => t.i1 = s.i1) (by simp) (by simp) rfl
@[simp] theorem observe_count (s : State) : (observe s).count = s.count :=
  landDue_keeps (P := fun t => t.count = s.count) (by simp) (by simp) rfl
@[simp] theorem landAll_count (s : State) : (landAll s).count = s.count :=
  landList_keeps (P := fun t => t.count = s.count) (by simp) (by simp) rfl
@[simp] theorem observe_line (s : State) : (observe s).line = s.line :=
  landDue_keeps (P := fun t => t.line = s.line) (by simp) (by simp) rfl
@[simp] theorem landAll_line (s : State) : (landAll s).line = s.line :=
  landList_keeps (P := fun t => t.line = s.line) (by simp) (by simp) rfl
@[simp] theorem observe_fault (s : State) : (observe s).fault = s.fault :=
  landDue_keeps (P := fun t => t.fault = s.fault) (by simp) (by simp) rfl
@[simp] theorem landAll_fault (s : State) : (landAll s).fault = s.fault :=
  landList_keeps (P := fun t => t.fault = s.fault) (by simp) (by simp) rfl
@[simp] theorem observe_refused (s : State) : (observe s).refused = s.refused :=
  landDue_keeps (P := fun t => t.refused = s.refused) (by simp) (by simp) rfl
@[simp] theorem landAll_refused (s : State) : (landAll s).refused = s.refused :=
  landList_keeps (P := fun t => t.refused = s.refused) (by simp) (by simp) rfl
@[simp] theorem observe_refusals (s : State) : (observe s).refusals = s.refusals :=
  landDue_keeps (P := fun t => t.refusals = s.refusals) (by simp) (by simp) rfl
@[simp] theorem landAll_refusals (s : State) : (landAll s).refusals = s.refusals :=
  landList_keeps (P := fun t => t.refusals = s.refusals) (by simp) (by simp) rfl
@[simp] theorem observe_draws (s : State) : (observe s).draws = s.draws :=
  landDue_keeps (P := fun t => t.draws = s.draws) (by simp) (by simp) rfl
@[simp] theorem landAll_draws (s : State) : (landAll s).draws = s.draws :=
  landList_keeps (P := fun t => t.draws = s.draws) (by simp) (by simp) rfl
@[simp] theorem observe_inputs (s : State) : (observe s).inputs = s.inputs :=
  landDue_keeps (P := fun t => t.inputs = s.inputs) (by simp) (by simp) rfl
@[simp] theorem landAll_inputs (s : State) : (landAll s).inputs = s.inputs :=
  landList_keeps (P := fun t => t.inputs = s.inputs) (by simp) (by simp) rfl
@[simp] theorem observe_yielded (s : State) : (observe s).yielded = s.yielded :=
  landDue_keeps (P := fun t => t.yielded = s.yielded) (by simp) (by simp) rfl
@[simp] theorem landAll_yielded (s : State) : (landAll s).yielded = s.yielded :=
  landList_keeps (P := fun t => t.yielded = s.yielded) (by simp) (by simp) rfl
@[simp] theorem observe_trace (s : State) : (observe s).trace = s.trace :=
  landDue_keeps (P := fun t => t.trace = s.trace) (by simp) (by simp) rfl
@[simp] theorem landAll_trace (s : State) : (landAll s).trace = s.trace :=
  landList_keeps (P := fun t => t.trace = s.trace) (by simp) (by simp) rfl
@[simp] theorem observe_events (s : State) : (observe s).events = s.events :=
  landDue_keeps (P := fun t => t.events = s.events) (by simp) (by simp) rfl
@[simp] theorem landAll_events (s : State) : (landAll s).events = s.events :=
  landList_keeps (P := fun t => t.events = s.events) (by simp) (by simp) rfl
@[simp] theorem observe_cfg (s : State) : (observe s).cfg = s.cfg :=
  landDue_keeps (P := fun t => t.cfg = s.cfg) (by simp) (by simp) rfl
@[simp] theorem landAll_cfg (s : State) : (landAll s).cfg = s.cfg :=
  landList_keeps (P := fun t => t.cfg = s.cfg) (by simp) (by simp) rfl
@[simp] theorem observe_ctl (s : State) (i : Inst) : (observe s).ctl i = s.ctl i :=
  landDue_keeps (P := fun t => t.ctl i = s.ctl i) (by simp) (by simp) rfl
@[simp] theorem landAll_ctl (s : State) (i : Inst) : (landAll s).ctl i = s.ctl i :=
  landList_keeps (P := fun t => t.ctl i = s.ctl i) (by simp) (by simp) rfl

theorem observe_memoryOk {s : State} (h : s.MemoryOk) : (observe s).MemoryOk :=
  landDue_keeps (P := State.MemoryOk) (fun _ _ _ => State.putByte_memoryOk) (fun _ _ h => h) h

theorem landAll_memoryOk {s : State} (h : s.MemoryOk) : (landAll s).MemoryOk :=
  landList_keeps (P := State.MemoryOk) (fun _ _ _ => State.putByte_memoryOk) (fun _ _ h => h) h

theorem observe_wf {s : State} (h : Memory.wf s.mem = true) : Memory.wf (observe s).mem = true :=
  landDue_keeps (P := fun s => Memory.wf s.mem = true) (fun _ _ _ => State.putByte_wf) (fun _ _ h => h) h

theorem landAll_wf {s : State} (h : Memory.wf s.mem = true) : Memory.wf (landAll s).mem = true :=
  landList_keeps (P := fun s => Memory.wf s.mem = true) (fun _ _ _ => State.putByte_wf) (fun _ _ h => h) h

theorem reset_memoryOk : State.reset.MemoryOk := by decide

end Sys2Proof.Machine
end

