-- ==== Sys2Proof/Laws/Ops.lean ====
section
/-! SUPPORT. What each shared operation does: the pieces of a step, the coordinator, the accesses to guest memory, and how a
property passes through a sequence of pieces. -/

namespace Sys2Proof.Machine

/-! ### The pieces of a step -/

@[simp] theorem op_pure {α : Type} (a : α) (s : State) : (pure a : Op α) s = .ok a s := rfl

theorem op_bind {α β : Type} (m : Op α) (f : α → Op β) (s : State) :
    (m >>= f) s = match m s with | .ok a t => f a t | .error e t => .error e t := by
  show EStateM.bind m f s = _
  unfold EStateM.bind
  cases m s <;> rfl

theorem op_bind_ok {α β : Type} {m : Op α} {f : α → Op β} {s t : State} {a : α} (h : m s = .ok a t) :
    (m >>= f) s = f a t := by rw [op_bind, h]

theorem op_bind_error {α β : Type} {m : Op α} {f : α → Op β} {s t : State} {e : Stop} (h : m s = .error e t) :
    (m >>= f) s = .error e t := by rw [op_bind, h]

@[simp] theorem ask_apply {α : Type} (f : State → α) (s : State) : ask f s = .ok (f s) s := rfl
@[simp] theorem change_apply (f : State → State) (s : State) : change f s = .ok () (f s) := rfl
@[simp] theorem getCtl_apply (i : Inst) (s : State) : getCtl i s = .ok (s.ctl i) s := rfl
@[simp] theorem getCfg_apply (s : State) : getCfg s = .ok s.cfg s := rfl
@[simp] theorem changeCtl_apply (i : Inst) (f : Ctl → Ctl) (s : State) : changeCtl i f s = .ok () (onCtl i f s) := rfl
@[simp] theorem barrier_apply (s : State) : barrier s = .ok () (s.addTrace .barrier) := rfl
@[simp] theorem emit_apply (e : OutEvent) (s : State) : emit e s = .ok () (s.addEvent e) := rfl
@[simp] theorem draw_apply {α : Type} (f : Nat → α) (s : State) : draw f s = .ok (f s.draws) s.nextDraw := rfl
@[simp] theorem yieldData_apply (v : Word) (s : State) : yieldData v s = .ok () (s.setYield (.data v)) := rfl
@[simp] theorem stopWith_apply {α : Type} (r : Stop) (s : State) : (stopWith r : Op α) s = .error r s := rfl
@[simp] theorem csrDevice_apply (i : Inst) (set clr : Word) (s : State) :
    csrDevice i set clr s = .ok () (csrChange i set clr s) := rfl
@[simp] theorem raise_apply {α : Type} (i : Inst) (ctx : NxmCtx) (s : State) :
    (raise i ctx : Op α) s = .error (.nxm ctx) (nxmState i ctx s) := rfl
@[simp] theorem refuse_apply {α : Type} (r : RefuseReason) (s : State) :
    (refuse r : Op α) s = .error (.refused r) (refuseState r s) := rfl
@[simp] theorem faultStop_apply {α : Type} (r : FaultReason) (s : State) :
    (faultStop r : Op α) s = .error (.faulted r) (s.setFault r) := rfl
@[simp] theorem hang_apply {α : Type} (i : Inst) (s : State) :
    (hang i : Op α) s = .error .hung (onCtl i (·.setHung true) s) := rfl

theorem runOp_of_ok {m : Op Unit} {s t : State} (h : m s = .ok () t) : runOp m s = .next t := by
  simp [runOp, endState, h]

theorem runOp_of_error {m : Op Unit} {s t : State} {e : Stop} (h : m s = .error e t) : runOp m s = .next t := by
  simp [runOp, endState, h]

theorem runOp_next {m : Op Unit} {s t : State} : runOp m s = .next t ↔ endState m s = t := by
  simp [runOp]

/-- An access of a class answers a next state exactly in the mode that forms the class, and then its operation's. -/
theorem inMode_next {m : Mode} {i : Inst} {op : Op Unit} {s t : State} :
    inMode m i op s = .next t ↔ (s.ctl i).mode = m ∧ endState op s = t := by
  unfold inMode
  split <;> simp_all [runOp]

/-! ### Properties of a piece -/

/-- From every state in `P` the piece goes on with a value and state in `Q`, or ends the step in a state in `E`. -/
def Piece {α : Type} (P : State → Prop) (m : Op α) (Q : α → State → Prop) (E : State → Prop) : Prop :=
  ∀ s, P s → match m s with | .ok a t => Q a t | .error _ t => E t

theorem Piece.endState {P E : State → Prop} {α : Type} {m : Op α} {Q : α → State → Prop} (h : Piece P m Q E)
    (hq : ∀ a t, Q a t → E t) {s : State} (hs : P s) : E (endState m s) := by
  have := h s hs
  unfold Machine.endState
  cases hm : m s <;> simp only [hm] at this ⊢
  · exact hq _ _ this
  · exact this

theorem Piece.weaken {P P' E E' : State → Prop} {α : Type} {m : Op α} {Q Q' : α → State → Prop}
    (h : Piece P m Q E) (hp : ∀ s, P' s → P s) (hq : ∀ a s, Q a s → Q' a s) (he : ∀ s, E s → E' s) :
    Piece P' m Q' E' := by
  intro s hs
  have := h s (hp s hs)
  cases hm : m s <;> simp only [hm] at this ⊢
  · exact hq _ _ this
  · exact he _ this

theorem Piece.pure {P E : State → Prop} {α : Type} {Q : α → State → Prop} {a : α} (h : ∀ s, P s → Q a s) :
    Piece P (pure a) Q E := fun s hs => h s hs

theorem Piece.bind {P E : State → Prop} {α β : Type} {m : Op α} {f : α → Op β} {Q : α → State → Prop}
    {R : β → State → Prop} (hm : Piece P m Q E) (hf : ∀ a, Piece (Q a) (f a) R E) : Piece P (m >>= f) R E := by
  intro s hs
  have h := hm s hs
  rw [op_bind]
  cases hms : m s with
  | ok a t => rw [hms] at h; exact hf a t h
  | error e t => rw [hms] at h; exact h

theorem Piece.ask {P E : State → Prop} {α : Type} {f : State → α} :
    Piece P (ask f) (fun a s => P s ∧ a = f s) E := fun _ hs => ⟨hs, rfl⟩

theorem Piece.change {P E : State → Prop} {Q : Unit → State → Prop} {f : State → State} (h : ∀ s, P s → Q () (f s)) :
    Piece P (change f) Q E := fun s hs => h s hs

theorem Piece.branch {P E : State → Prop} {α : Type} {Q : α → State → Prop} {c : Prop} [Decidable c] {m n : Op α}
    (hm : c → Piece P m Q E) (hn : ¬c → Piece P n Q E) : Piece P (if c then m else n) Q E := by
  split
  · exact hm (by assumption)
  · exact hn (by assumption)

/-! ### The coordinator -/

/-- What `SetInt` can do: the request is pending afterwards, and nothing but the pending flag, the count and the line has
changed. -/
theorem setInt_spec (i : Inst) (s : State) :
    ((s.ctl i).pending = true ∧ setInt i s = s)
      ∨ ((s.ctl i).pending = false
        ∧ setInt i s = (onCtl i (·.setPending true) s).setCoord (s.count + 1) true) := by
  unfold setInt
  cases h : (s.ctl i).pending <;> simp

/-- What `ClrInt` can do. -/
theorem clrInt_spec (i : Inst) (s : State) :
    ((s.ctl i).pending = false ∧ clrInt i s = s)
      ∨ ((s.ctl i).pending = true
        ∧ clrInt i s = (onCtl i (·.setPending false) s).setCoord (s.count - 1) (decide (0 < s.count - 1))) := by
  unfold clrInt
  cases h : (s.ctl i).pending <;> simp

@[simp] theorem setInt_pending (i : Inst) (s : State) : ((setInt i s).ctl i).pending = true := by
  rcases setInt_spec i s with ⟨h, e⟩ | ⟨h, e⟩ <;> rw [e] <;> simp [h]

@[simp] theorem clrInt_pending (i : Inst) (s : State) : ((clrInt i s).ctl i).pending = false := by
  rcases clrInt_spec i s with ⟨h, e⟩ | ⟨h, e⟩ <;> rw [e] <;> simp [h]

theorem coordinatorOk_iff (s : State) :
    coordinatorOk s = true ↔
      s.count = s.i0.pending.toNat + s.i1.pending.toNat ∧ s.line = decide (0 < s.count) := by
  simp [coordinatorOk]

/-- `SetInt` keeps the coordinator's invariant. -/
theorem setInt_coordinatorOk {i : Inst} {s : State} (h : coordinatorOk s = true) : coordinatorOk (setInt i s) = true := by
  rcases setInt_spec i s with ⟨_, e⟩ | ⟨hp, e⟩
  · rw [e]; exact h
  · rw [e, coordinatorOk_iff]
    obtain ⟨hc, _⟩ := (coordinatorOk_iff s).1 h
    cases i <;> simp only [State.ctl_i0, State.ctl_i1] at hp
    · simp [onCtl, State.setCtl, hc, hp]; omega
    · simp [onCtl, State.setCtl, hc, hp]

/-- `ClrInt` keeps the coordinator's invariant. -/
theorem clrInt_coordinatorOk {i : Inst} {s : State} (h : coordinatorOk s = true) : coordinatorOk (clrInt i s) = true := by
  rcases clrInt_spec i s with ⟨_, e⟩ | ⟨hp, e⟩
  · rw [e]; exact h
  · rw [e, coordinatorOk_iff]
    obtain ⟨hc, _⟩ := (coordinatorOk_iff s).1 h
    cases i <;> simp only [State.ctl_i0, State.ctl_i1] at hp <;> simp [onCtl, State.setCtl, hc, hp]

/-- `IntClassic` either sets, clears or leaves the request (rule R197). -/
theorem intClassic_cases (i : Inst) (old new : Word) (s : State) :
    (intEdge old new = true ∧ intClassic i old new s = setInt i s)
      ∨ (intEdge old new = false ∧ intWithdraw new = true ∧ intClassic i old new s = clrInt i s)
      ∨ (intEdge old new = false ∧ intWithdraw new = false ∧ intClassic i old new s = s) := by
  unfold intClassic
  cases intEdge old new <;> cases intWithdraw new <;> simp

/-- `IntTurbo` either sets or clears the request (rule R198). -/
theorem intTurbo_cases (i : Inst) (s : State) :
    (((s.ctl i).turbo.icrEn = true ∧ (s.ctl i).turbo.tlatch = true) ∧ intTurbo i s = setInt i s)
      ∨ (¬((s.ctl i).turbo.icrEn = true ∧ (s.ctl i).turbo.tlatch = true) ∧ intTurbo i s = clrInt i s) := by
  unfold intTurbo
  cases (s.ctl i).turbo.icrEn <;> cases (s.ctl i).turbo.tlatch <;> simp

/-! ### Guest-memory accesses -/

/-- What a byte read can do. -/
theorem readByte_cases (i : Inst) (ctx : NxmCtx) (a : Addr) (s : State) :
    (backed s.cfg a = true ∧ readByte i ctx a s = .ok ((observe s).byteAt a) (observe s))
      ∨ (backed s.cfg a = false ∧ readByte i ctx a s = .error (.nxm ctx) (nxmState i ctx (observe s))) := by
  unfold readByte
  cases backed s.cfg a <;> simp

/-- What a word read can do. -/
theorem readWord_cases (i : Inst) (ctx : NxmCtx) (a : Addr) (s : State) :
    (a.getLsbD 0 = true ∧ readWord i ctx a s = .error (.refused .oddAddress) (refuseState .oddAddress s))
      ∨ (wordReady s.cfg a = true ∧ readWord i ctx a s = .ok ((observe s).wordAt a) (observe s))
      ∨ (a.getLsbD 0 = false ∧ wordBacked s.cfg a = false
        ∧ readWord i ctx a s = .error (.nxm ctx) (nxmState i ctx (observe s))) := by
  unfold readWord wordReady
  cases a.getLsbD 0 <;> cases wordBacked s.cfg a <;> simp

/-- What a byte write can do. -/
theorem writeByte_cases (i : Inst) (ctx : NxmCtx) (a : Addr) (b : Byte) (s : State) :
    (backed s.cfg a = true ∧ writeByte i ctx a b s = .ok () (((observe s).putByte a b).addTrace (.byte a b)))
      ∨ (backed s.cfg a = false ∧ writeByte i ctx a b s = .error (.nxm ctx) (nxmState i ctx (observe s))) := by
  unfold writeByte
  cases backed s.cfg a <;> simp

/-- What a word write can do. -/
theorem writeWord_cases (i : Inst) (ctx : NxmCtx) (a : Addr) (v : Word) (s : State) :
    (a.getLsbD 0 = true ∧ writeWord i ctx a v s = .error (.refused .oddAddress) (refuseState .oddAddress s))
      ∨ (wordReady s.cfg a = true ∧ writeWord i ctx a v s = .ok () ((observe s).wroteWord a v))
      ∨ (a.getLsbD 0 = false ∧ wordBacked s.cfg a = false
        ∧ writeWord i ctx a v s = .error (.nxm ctx) (nxmState i ctx (observe s))) := by
  unfold writeWord wordReady State.wroteWord
  cases a.getLsbD 0 <;> cases wordBacked s.cfg a <;> simp

theorem readWord_of_ready {i : Inst} {ctx : NxmCtx} {a : Addr} {s : State} (h : wordReady s.cfg a = true)
    (hq : s.concurrent = []) : readWord i ctx a s = .ok (s.wordAt a) s := by
  rcases readWord_cases i ctx a s with ⟨h', _⟩ | ⟨_, e⟩ | ⟨h1, h2, _⟩
  · simp only [wordReady, h', Bool.not_true, Bool.false_and, Bool.false_eq_true] at h
  · rw [e, observe_of_nil hq]
  · simp only [wordReady, h2, Bool.and_false, Bool.false_eq_true] at h

theorem writeWord_of_ready {i : Inst} {ctx : NxmCtx} {a : Addr} {v : Word} {s : State} (h : wordReady s.cfg a = true)
    (hq : s.concurrent = []) : writeWord i ctx a v s = .ok () (s.wroteWord a v) := by
  rcases writeWord_cases i ctx a v s with ⟨h', _⟩ | ⟨_, e⟩ | ⟨h1, h2, _⟩
  · simp only [wordReady, h', Bool.not_true, Bool.false_and, Bool.false_eq_true] at h
  · rw [e, observe_of_nil hq]
  · simp only [wordReady, h2, Bool.and_false, Bool.false_eq_true] at h

/-- Reading a run of backed bytes changes nothing. -/
theorem readBytes_of_backed {i : Inst} {ctx : NxmCtx} {n : Nat} {a : Addr} {s : State}
    (h : bytesBacked s.cfg a n = true) (hq : s.concurrent = []) : readBytes i ctx n a s = .ok (s.bytesAt a n) s := by
  induction n generalizing a with
  | zero => rfl
  | succ n ih =>
    simp only [bytesBacked, Bool.and_eq_true] at h
    have h1 : readByte i ctx a s = .ok (s.byteAt a) s := by simp [readByte, h.1, observe_of_nil hq]
    rw [readBytes, op_bind_ok h1, op_bind_ok (ih h.2)]
    rfl

@[simp] theorem State.wroteBytes_cfg (bs : List Byte) (a : Addr) (s : State) :
    (State.wroteBytes a bs s).cfg = s.cfg := by
  induction bs generalizing a s with
  | nil => rfl
  | cons b rest ih => simp [State.wroteBytes, ih]

@[simp] theorem State.wroteBytes_concurrent (bs : List Byte) (a : Addr) (s : State) :
    (State.wroteBytes a bs s).concurrent = s.concurrent := by
  induction bs generalizing a s with
  | nil => rfl
  | cons b rest ih => simp [State.wroteBytes, ih]

@[simp] theorem State.wroteBytes_ctl (bs : List Byte) (a : Addr) (s : State) (i : Inst) :
    (State.wroteBytes a bs s).ctl i = s.ctl i := by
  induction bs generalizing a s with
  | nil => rfl
  | cons b rest ih => simp [State.wroteBytes, ih]

/-- Writing a run of backed bytes. -/
theorem writeBytes_of_backed {i : Inst} {ctx : NxmCtx} {bs : List Byte} {a : Addr} {s : State}
    (h : bytesBacked s.cfg a bs.length = true) (hq : s.concurrent = []) :
    writeBytes i ctx a bs s = .ok () (State.wroteBytes a bs s) := by
  induction bs generalizing a s with
  | nil => rfl
  | cons b rest ih =>
    simp only [List.length_cons, bytesBacked, Bool.and_eq_true] at h
    have h1 : writeByte i ctx a b s = .ok () ((s.putByte a b).addTrace (.byte a b)) := by
      simp [writeByte, h.1, observe_of_nil hq]
    rw [writeBytes, op_bind_ok h1]
    exact ih (by simpa using h.2) (by simpa using hq)

@[simp] theorem State.wroteWord_cfg (a : Addr) (v : Word) (s : State) : (s.wroteWord a v).cfg = s.cfg := by
  simp [State.wroteWord]
@[simp] theorem State.wroteWord_ctl (a : Addr) (v : Word) (s : State) (i : Inst) : (s.wroteWord a v).ctl i = s.ctl i := by
  simp [State.wroteWord]
@[simp] theorem State.wroteWord_concurrent (a : Addr) (v : Word) (s : State) :
    (s.wroteWord a v).concurrent = s.concurrent := by simp [State.wroteWord]
@[simp] theorem State.wrotePair_concurrent (p : Addr) (a b : Word) (s : State) :
    (s.wrotePair p a b).concurrent = s.concurrent := by simp [State.wrotePair]
@[simp] theorem State.wrotePair_cfg (p : Addr) (a b : Word) (s : State) : (s.wrotePair p a b).cfg = s.cfg := by
  simp [State.wrotePair]
@[simp] theorem State.wrotePair_ctl (p : Addr) (a b : Word) (s : State) (i : Inst) :
    (s.wrotePair p a b).ctl i = s.ctl i := by simp [State.wrotePair]

/-- A status pair on a descriptor whose status words can be accessed. -/
theorem statusPair_of_ready {i : Inst} {ctx : NxmCtx} {p : Addr} {sw1 sw2 : Word} {s : State}
    (h1 : wordReady s.cfg (p + 8) = true) (h2 : wordReady s.cfg (p + 10) = true) (hq : s.concurrent = []) :
    statusPair i ctx p sw1 sw2 s = .ok () (s.wrotePair p sw1 sw2) := by
  unfold statusPair
  rw [op_bind_ok (writeWord_of_ready h2 hq), op_bind_ok (barrier_apply _)]
  exact writeWord_of_ready (by simpa using h1) (by simpa using hq)

end Sys2Proof.Machine
end

