-- ==== Sys2Proof/Laws/Coordinator.lean ====
section
/-! SUPPORT. What the coordinator's operations, a CSR change, the two errors and the full reset leave as it was, field by
field. -/

namespace Sys2Proof.Machine

@[simp] theorem setInt_fault (i : Inst) (s : State) : (setInt i s).fault = s.fault := by
  rcases setInt_spec i s with ⟨_, e⟩ | ⟨_, e⟩ <;> simp [e]
@[simp] theorem setInt_refused (i : Inst) (s : State) : (setInt i s).refused = s.refused := by
  rcases setInt_spec i s with ⟨_, e⟩ | ⟨_, e⟩ <;> simp [e]
@[simp] theorem setInt_refusals (i : Inst) (s : State) : (setInt i s).refusals = s.refusals := by
  rcases setInt_spec i s with ⟨_, e⟩ | ⟨_, e⟩ <;> simp [e]
@[simp] theorem setInt_draws (i : Inst) (s : State) : (setInt i s).draws = s.draws := by
  rcases setInt_spec i s with ⟨_, e⟩ | ⟨_, e⟩ <;> simp [e]
@[simp] theorem setInt_inputs (i : Inst) (s : State) : (setInt i s).inputs = s.inputs := by
  rcases setInt_spec i s with ⟨_, e⟩ | ⟨_, e⟩ <;> simp [e]
@[simp] theorem setInt_yielded (i : Inst) (s : State) : (setInt i s).yielded = s.yielded := by
  rcases setInt_spec i s with ⟨_, e⟩ | ⟨_, e⟩ <;> simp [e]
@[simp] theorem setInt_mem (i : Inst) (s : State) : (setInt i s).mem = s.mem := by
  rcases setInt_spec i s with ⟨_, e⟩ | ⟨_, e⟩ <;> simp [e]
@[simp] theorem setInt_trace (i : Inst) (s : State) : (setInt i s).trace = s.trace := by
  rcases setInt_spec i s with ⟨_, e⟩ | ⟨_, e⟩ <;> simp [e]
@[simp] theorem setInt_concurrent (i : Inst) (s : State) : (setInt i s).concurrent = s.concurrent := by
  rcases setInt_spec i s with ⟨_, e⟩ | ⟨_, e⟩ <;> simp [e]
@[simp] theorem setInt_events (i : Inst) (s : State) : (setInt i s).events = s.events := by
  rcases setInt_spec i s with ⟨_, e⟩ | ⟨_, e⟩ <;> simp [e]
@[simp] theorem setInt_cfg (i : Inst) (s : State) : (setInt i s).cfg = s.cfg := by
  rcases setInt_spec i s with ⟨_, e⟩ | ⟨_, e⟩ <;> simp [e]
@[simp] theorem setInt_ctl_other (i : Inst) (s : State) : (setInt i s).ctl i.other = s.ctl i.other := by
  rcases setInt_spec i s with ⟨_, e⟩ | ⟨_, e⟩ <;> simp [e]
@[simp] theorem setInt_mode_ctl (i : Inst) (s : State) :
    ((setInt i s).ctl i).mode = (s.ctl i).mode := by
  rcases setInt_spec i s with ⟨_, e⟩ | ⟨_, e⟩ <;> simp [e]
@[simp] theorem setInt_classic_ctl (i : Inst) (s : State) :
    ((setInt i s).ctl i).classic = (s.ctl i).classic := by
  rcases setInt_spec i s with ⟨_, e⟩ | ⟨_, e⟩ <;> simp [e]
@[simp] theorem setInt_rxSubscribed_ctl (i : Inst) (s : State) :
    ((setInt i s).ctl i).rxSubscribed = (s.ctl i).rxSubscribed := by
  rcases setInt_spec i s with ⟨_, e⟩ | ⟨_, e⟩ <;> simp [e]
@[simp] theorem setInt_tx_ctl (i : Inst) (s : State) :
    ((setInt i s).ctl i).tx = (s.ctl i).tx := by
  rcases setInt_spec i s with ⟨_, e⟩ | ⟨_, e⟩ <;> simp [e]
@[simp] theorem setInt_turbo_ctl (i : Inst) (s : State) :
    ((setInt i s).ctl i).turbo = (s.ctl i).turbo := by
  rcases setInt_spec i s with ⟨_, e⟩ | ⟨_, e⟩ <;> simp [e]
@[simp] theorem setInt_init_ctl (i : Inst) (s : State) :
    ((setInt i s).ctl i).init = (s.ctl i).init := by
  rcases setInt_spec i s with ⟨_, e⟩ | ⟨_, e⟩ <;> simp [e]
@[simp] theorem setInt_setup_ctl (i : Inst) (s : State) :
    ((setInt i s).ctl i).setup = (s.ctl i).setup := by
  rcases setInt_spec i s with ⟨_, e⟩ | ⟨_, e⟩ <;> simp [e]
@[simp] theorem setInt_queue_ctl (i : Inst) (s : State) :
    ((setInt i s).ctl i).queue = (s.ctl i).queue := by
  rcases setInt_spec i s with ⟨_, e⟩ | ⟨_, e⟩ <;> simp [e]
@[simp] theorem setInt_timers_ctl (i : Inst) (s : State) :
    ((setInt i s).ctl i).timers = (s.ctl i).timers := by
  rcases setInt_spec i s with ⟨_, e⟩ | ⟨_, e⟩ <;> simp [e]
@[simp] theorem setInt_stats_ctl (i : Inst) (s : State) :
    ((setInt i s).ctl i).stats = (s.ctl i).stats := by
  rcases setInt_spec i s with ⟨_, e⟩ | ⟨_, e⟩ <;> simp [e]
@[simp] theorem setInt_hung_ctl (i : Inst) (s : State) :
    ((setInt i s).ctl i).hung = (s.ctl i).hung := by
  rcases setInt_spec i s with ⟨_, e⟩ | ⟨_, e⟩ <;> simp [e]
@[simp] theorem clrInt_fault (i : Inst) (s : State) : (clrInt i s).fault = s.fault := by
  rcases clrInt_spec i s with ⟨_, e⟩ | ⟨_, e⟩ <;> simp [e]
@[simp] theorem clrInt_refused (i : Inst) (s : State) : (clrInt i s).refused = s.refused := by
  rcases clrInt_spec i s with ⟨_, e⟩ | ⟨_, e⟩ <;> simp [e]
@[simp] theorem clrInt_refusals (i : Inst) (s : State) : (clrInt i s).refusals = s.refusals := by
  rcases clrInt_spec i s with ⟨_, e⟩ | ⟨_, e⟩ <;> simp [e]
@[simp] theorem clrInt_draws (i : Inst) (s : State) : (clrInt i s).draws = s.draws := by
  rcases clrInt_spec i s with ⟨_, e⟩ | ⟨_, e⟩ <;> simp [e]
@[simp] theorem clrInt_inputs (i : Inst) (s : State) : (clrInt i s).inputs = s.inputs := by
  rcases clrInt_spec i s with ⟨_, e⟩ | ⟨_, e⟩ <;> simp [e]
@[simp] theorem clrInt_yielded (i : Inst) (s : State) : (clrInt i s).yielded = s.yielded := by
  rcases clrInt_spec i s with ⟨_, e⟩ | ⟨_, e⟩ <;> simp [e]
@[simp] theorem clrInt_mem (i : Inst) (s : State) : (clrInt i s).mem = s.mem := by
  rcases clrInt_spec i s with ⟨_, e⟩ | ⟨_, e⟩ <;> simp [e]
@[simp] theorem clrInt_trace (i : Inst) (s : State) : (clrInt i s).trace = s.trace := by
  rcases clrInt_spec i s with ⟨_, e⟩ | ⟨_, e⟩ <;> simp [e]
@[simp] theorem clrInt_concurrent (i : Inst) (s : State) : (clrInt i s).concurrent = s.concurrent := by
  rcases clrInt_spec i s with ⟨_, e⟩ | ⟨_, e⟩ <;> simp [e]
@[simp] theorem clrInt_events (i : Inst) (s : State) : (clrInt i s).events = s.events := by
  rcases clrInt_spec i s with ⟨_, e⟩ | ⟨_, e⟩ <;> simp [e]
@[simp] theorem clrInt_cfg (i : Inst) (s : State) : (clrInt i s).cfg = s.cfg := by
  rcases clrInt_spec i s with ⟨_, e⟩ | ⟨_, e⟩ <;> simp [e]
@[simp] theorem clrInt_ctl_other (i : Inst) (s : State) : (clrInt i s).ctl i.other = s.ctl i.other := by
  rcases clrInt_spec i s with ⟨_, e⟩ | ⟨_, e⟩ <;> simp [e]
@[simp] theorem clrInt_mode_ctl (i : Inst) (s : State) :
    ((clrInt i s).ctl i).mode = (s.ctl i).mode := by
  rcases clrInt_spec i s with ⟨_, e⟩ | ⟨_, e⟩ <;> simp [e]
@[simp] theorem clrInt_classic_ctl (i : Inst) (s : State) :
    ((clrInt i s).ctl i).classic = (s.ctl i).classic := by
  rcases clrInt_spec i s with ⟨_, e⟩ | ⟨_, e⟩ <;> simp [e]
@[simp] theorem clrInt_rxSubscribed_ctl (i : Inst) (s : State) :
    ((clrInt i s).ctl i).rxSubscribed = (s.ctl i).rxSubscribed := by
  rcases clrInt_spec i s with ⟨_, e⟩ | ⟨_, e⟩ <;> simp [e]
@[simp] theorem clrInt_tx_ctl (i : Inst) (s : State) :
    ((clrInt i s).ctl i).tx = (s.ctl i).tx := by
  rcases clrInt_spec i s with ⟨_, e⟩ | ⟨_, e⟩ <;> simp [e]
@[simp] theorem clrInt_turbo_ctl (i : Inst) (s : State) :
    ((clrInt i s).ctl i).turbo = (s.ctl i).turbo := by
  rcases clrInt_spec i s with ⟨_, e⟩ | ⟨_, e⟩ <;> simp [e]
@[simp] theorem clrInt_init_ctl (i : Inst) (s : State) :
    ((clrInt i s).ctl i).init = (s.ctl i).init := by
  rcases clrInt_spec i s with ⟨_, e⟩ | ⟨_, e⟩ <;> simp [e]
@[simp] theorem clrInt_setup_ctl (i : Inst) (s : State) :
    ((clrInt i s).ctl i).setup = (s.ctl i).setup := by
  rcases clrInt_spec i s with ⟨_, e⟩ | ⟨_, e⟩ <;> simp [e]
@[simp] theorem clrInt_queue_ctl (i : Inst) (s : State) :
    ((clrInt i s).ctl i).queue = (s.ctl i).queue := by
  rcases clrInt_spec i s with ⟨_, e⟩ | ⟨_, e⟩ <;> simp [e]
@[simp] theorem clrInt_timers_ctl (i : Inst) (s : State) :
    ((clrInt i s).ctl i).timers = (s.ctl i).timers := by
  rcases clrInt_spec i s with ⟨_, e⟩ | ⟨_, e⟩ <;> simp [e]
@[simp] theorem clrInt_stats_ctl (i : Inst) (s : State) :
    ((clrInt i s).ctl i).stats = (s.ctl i).stats := by
  rcases clrInt_spec i s with ⟨_, e⟩ | ⟨_, e⟩ <;> simp [e]
@[simp] theorem clrInt_hung_ctl (i : Inst) (s : State) :
    ((clrInt i s).ctl i).hung = (s.ctl i).hung := by
  rcases clrInt_spec i s with ⟨_, e⟩ | ⟨_, e⟩ <;> simp [e]
@[simp] theorem intClassic_fault (i : Inst) (old new : Word) (s : State) : (intClassic i old new s).fault = s.fault := by
  rcases intClassic_cases i old new s with ⟨_, e⟩ | ⟨_, _, e⟩ | ⟨_, _, e⟩ <;> simp [e]
@[simp] theorem intClassic_refused (i : Inst) (old new : Word) (s : State) : (intClassic i old new s).refused = s.refused := by
  rcases intClassic_cases i old new s with ⟨_, e⟩ | ⟨_, _, e⟩ | ⟨_, _, e⟩ <;> simp [e]
@[simp] theorem intClassic_refusals (i : Inst) (old new : Word) (s : State) : (intClassic i old new s).refusals = s.refusals := by
  rcases intClassic_cases i old new s with ⟨_, e⟩ | ⟨_, _, e⟩ | ⟨_, _, e⟩ <;> simp [e]
@[simp] theorem intClassic_draws (i : Inst) (old new : Word) (s : State) : (intClassic i old new s).draws = s.draws := by
  rcases intClassic_cases i old new s with ⟨_, e⟩ | ⟨_, _, e⟩ | ⟨_, _, e⟩ <;> simp [e]
@[simp] theorem intClassic_inputs (i : Inst) (old new : Word) (s : State) : (intClassic i old new s).inputs = s.inputs := by
  rcases intClassic_cases i old new s with ⟨_, e⟩ | ⟨_, _, e⟩ | ⟨_, _, e⟩ <;> simp [e]
@[simp] theorem intClassic_yielded (i : Inst) (old new : Word) (s : State) : (intClassic i old new s).yielded = s.yielded := by
  rcases intClassic_cases i old new s with ⟨_, e⟩ | ⟨_, _, e⟩ | ⟨_, _, e⟩ <;> simp [e]
@[simp] theorem intClassic_mem (i : Inst) (old new : Word) (s : State) : (intClassic i old new s).mem = s.mem := by
  rcases intClassic_cases i old new s with ⟨_, e⟩ | ⟨_, _, e⟩ | ⟨_, _, e⟩ <;> simp [e]
@[simp] theorem intClassic_trace (i : Inst) (old new : Word) (s : State) : (intClassic i old new s).trace = s.trace := by
  rcases intClassic_cases i old new s with ⟨_, e⟩ | ⟨_, _, e⟩ | ⟨_, _, e⟩ <;> simp [e]
@[simp] theorem intClassic_concurrent (i : Inst) (old new : Word) (s : State) : (intClassic i old new s).concurrent = s.concurrent := by
  rcases intClassic_cases i old new s with ⟨_, e⟩ | ⟨_, _, e⟩ | ⟨_, _, e⟩ <;> simp [e]
@[simp] theorem intClassic_events (i : Inst) (old new : Word) (s : State) : (intClassic i old new s).events = s.events := by
  rcases intClassic_cases i old new s with ⟨_, e⟩ | ⟨_, _, e⟩ | ⟨_, _, e⟩ <;> simp [e]
@[simp] theorem intClassic_cfg (i : Inst) (old new : Word) (s : State) : (intClassic i old new s).cfg = s.cfg := by
  rcases intClassic_cases i old new s with ⟨_, e⟩ | ⟨_, _, e⟩ | ⟨_, _, e⟩ <;> simp [e]
@[simp] theorem intClassic_ctl_other (i : Inst) (old new : Word) (s : State) : (intClassic i old new s).ctl i.other = s.ctl i.other := by
  rcases intClassic_cases i old new s with ⟨_, e⟩ | ⟨_, _, e⟩ | ⟨_, _, e⟩ <;> simp [e]
@[simp] theorem intClassic_mode_ctl (i : Inst) (old new : Word) (s : State) :
    ((intClassic i old new s).ctl i).mode = (s.ctl i).mode := by
  rcases intClassic_cases i old new s with ⟨_, e⟩ | ⟨_, _, e⟩ | ⟨_, _, e⟩ <;> simp [e]
@[simp] theorem intClassic_classic_ctl (i : Inst) (old new : Word) (s : State) :
    ((intClassic i old new s).ctl i).classic = (s.ctl i).classic := by
  rcases intClassic_cases i old new s with ⟨_, e⟩ | ⟨_, _, e⟩ | ⟨_, _, e⟩ <;> simp [e]
@[simp] theorem intClassic_rxSubscribed_ctl (i : Inst) (old new : Word) (s : State) :
    ((intClassic i old new s).ctl i).rxSubscribed = (s.ctl i).rxSubscribed := by
  rcases intClassic_cases i old new s with ⟨_, e⟩ | ⟨_, _, e⟩ | ⟨_, _, e⟩ <;> simp [e]
@[simp] theorem intClassic_tx_ctl (i : Inst) (old new : Word) (s : State) :
    ((intClassic i old new s).ctl i).tx = (s.ctl i).tx := by
  rcases intClassic_cases i old new s with ⟨_, e⟩ | ⟨_, _, e⟩ | ⟨_, _, e⟩ <;> simp [e]
@[simp] theorem intClassic_turbo_ctl (i : Inst) (old new : Word) (s : State) :
    ((intClassic i old new s).ctl i).turbo = (s.ctl i).turbo := by
  rcases intClassic_cases i old new s with ⟨_, e⟩ | ⟨_, _, e⟩ | ⟨_, _, e⟩ <;> simp [e]
@[simp] theorem intClassic_init_ctl (i : Inst) (old new : Word) (s : State) :
    ((intClassic i old new s).ctl i).init = (s.ctl i).init := by
  rcases intClassic_cases i old new s with ⟨_, e⟩ | ⟨_, _, e⟩ | ⟨_, _, e⟩ <;> simp [e]
@[simp] theorem intClassic_setup_ctl (i : Inst) (old new : Word) (s : State) :
    ((intClassic i old new s).ctl i).setup = (s.ctl i).setup := by
  rcases intClassic_cases i old new s with ⟨_, e⟩ | ⟨_, _, e⟩ | ⟨_, _, e⟩ <;> simp [e]
@[simp] theorem intClassic_queue_ctl (i : Inst) (old new : Word) (s : State) :
    ((intClassic i old new s).ctl i).queue = (s.ctl i).queue := by
  rcases intClassic_cases i old new s with ⟨_, e⟩ | ⟨_, _, e⟩ | ⟨_, _, e⟩ <;> simp [e]
@[simp] theorem intClassic_timers_ctl (i : Inst) (old new : Word) (s : State) :
    ((intClassic i old new s).ctl i).timers = (s.ctl i).timers := by
  rcases intClassic_cases i old new s with ⟨_, e⟩ | ⟨_, _, e⟩ | ⟨_, _, e⟩ <;> simp [e]
@[simp] theorem intClassic_stats_ctl (i : Inst) (old new : Word) (s : State) :
    ((intClassic i old new s).ctl i).stats = (s.ctl i).stats := by
  rcases intClassic_cases i old new s with ⟨_, e⟩ | ⟨_, _, e⟩ | ⟨_, _, e⟩ <;> simp [e]
@[simp] theorem intClassic_hung_ctl (i : Inst) (old new : Word) (s : State) :
    ((intClassic i old new s).ctl i).hung = (s.ctl i).hung := by
  rcases intClassic_cases i old new s with ⟨_, e⟩ | ⟨_, _, e⟩ | ⟨_, _, e⟩ <;> simp [e]
@[simp] theorem intTurbo_fault (i : Inst) (s : State) : (intTurbo i s).fault = s.fault := by
  rcases intTurbo_cases i s with ⟨_, e⟩ | ⟨_, e⟩ <;> simp [e]
@[simp] theorem intTurbo_refused (i : Inst) (s : State) : (intTurbo i s).refused = s.refused := by
  rcases intTurbo_cases i s with ⟨_, e⟩ | ⟨_, e⟩ <;> simp [e]
@[simp] theorem intTurbo_refusals (i : Inst) (s : State) : (intTurbo i s).refusals = s.refusals := by
  rcases intTurbo_cases i s with ⟨_, e⟩ | ⟨_, e⟩ <;> simp [e]
@[simp] theorem intTurbo_draws (i : Inst) (s : State) : (intTurbo i s).draws = s.draws := by
  rcases intTurbo_cases i s with ⟨_, e⟩ | ⟨_, e⟩ <;> simp [e]
@[simp] theorem intTurbo_inputs (i : Inst) (s : State) : (intTurbo i s).inputs = s.inputs := by
  rcases intTurbo_cases i s with ⟨_, e⟩ | ⟨_, e⟩ <;> simp [e]
@[simp] theorem intTurbo_yielded (i : Inst) (s : State) : (intTurbo i s).yielded = s.yielded := by
  rcases intTurbo_cases i s with ⟨_, e⟩ | ⟨_, e⟩ <;> simp [e]
@[simp] theorem intTurbo_mem (i : Inst) (s : State) : (intTurbo i s).mem = s.mem := by
  rcases intTurbo_cases i s with ⟨_, e⟩ | ⟨_, e⟩ <;> simp [e]
@[simp] theorem intTurbo_trace (i : Inst) (s : State) : (intTurbo i s).trace = s.trace := by
  rcases intTurbo_cases i s with ⟨_, e⟩ | ⟨_, e⟩ <;> simp [e]
@[simp] theorem intTurbo_concurrent (i : Inst) (s : State) : (intTurbo i s).concurrent = s.concurrent := by
  rcases intTurbo_cases i s with ⟨_, e⟩ | ⟨_, e⟩ <;> simp [e]
@[simp] theorem intTurbo_events (i : Inst) (s : State) : (intTurbo i s).events = s.events := by
  rcases intTurbo_cases i s with ⟨_, e⟩ | ⟨_, e⟩ <;> simp [e]
@[simp] theorem intTurbo_cfg (i : Inst) (s : State) : (intTurbo i s).cfg = s.cfg := by
  rcases intTurbo_cases i s with ⟨_, e⟩ | ⟨_, e⟩ <;> simp [e]
@[simp] theorem intTurbo_ctl_other (i : Inst) (s : State) : (intTurbo i s).ctl i.other = s.ctl i.other := by
  rcases intTurbo_cases i s with ⟨_, e⟩ | ⟨_, e⟩ <;> simp [e]
@[simp] theorem intTurbo_mode_ctl (i : Inst) (s : State) :
    ((intTurbo i s).ctl i).mode = (s.ctl i).mode := by
  rcases intTurbo_cases i s with ⟨_, e⟩ | ⟨_, e⟩ <;> simp [e]
@[simp] theorem intTurbo_classic_ctl (i : Inst) (s : State) :
    ((intTurbo i s).ctl i).classic = (s.ctl i).classic := by
  rcases intTurbo_cases i s with ⟨_, e⟩ | ⟨_, e⟩ <;> simp [e]
@[simp] theorem intTurbo_rxSubscribed_ctl (i : Inst) (s : State) :
    ((intTurbo i s).ctl i).rxSubscribed = (s.ctl i).rxSubscribed := by
  rcases intTurbo_cases i s with ⟨_, e⟩ | ⟨_, e⟩ <;> simp [e]
@[simp] theorem intTurbo_tx_ctl (i : Inst) (s : State) :
    ((intTurbo i s).ctl i).tx = (s.ctl i).tx := by
  rcases intTurbo_cases i s with ⟨_, e⟩ | ⟨_, e⟩ <;> simp [e]
@[simp] theorem intTurbo_turbo_ctl (i : Inst) (s : State) :
    ((intTurbo i s).ctl i).turbo = (s.ctl i).turbo := by
  rcases intTurbo_cases i s with ⟨_, e⟩ | ⟨_, e⟩ <;> simp [e]
@[simp] theorem intTurbo_init_ctl (i : Inst) (s : State) :
    ((intTurbo i s).ctl i).init = (s.ctl i).init := by
  rcases intTurbo_cases i s with ⟨_, e⟩ | ⟨_, e⟩ <;> simp [e]
@[simp] theorem intTurbo_setup_ctl (i : Inst) (s : State) :
    ((intTurbo i s).ctl i).setup = (s.ctl i).setup := by
  rcases intTurbo_cases i s with ⟨_, e⟩ | ⟨_, e⟩ <;> simp [e]
@[simp] theorem intTurbo_queue_ctl (i : Inst) (s : State) :
    ((intTurbo i s).ctl i).queue = (s.ctl i).queue := by
  rcases intTurbo_cases i s with ⟨_, e⟩ | ⟨_, e⟩ <;> simp [e]
@[simp] theorem intTurbo_timers_ctl (i : Inst) (s : State) :
    ((intTurbo i s).ctl i).timers = (s.ctl i).timers := by
  rcases intTurbo_cases i s with ⟨_, e⟩ | ⟨_, e⟩ <;> simp [e]
@[simp] theorem intTurbo_stats_ctl (i : Inst) (s : State) :
    ((intTurbo i s).ctl i).stats = (s.ctl i).stats := by
  rcases intTurbo_cases i s with ⟨_, e⟩ | ⟨_, e⟩ <;> simp [e]
@[simp] theorem intTurbo_hung_ctl (i : Inst) (s : State) :
    ((intTurbo i s).ctl i).hung = (s.ctl i).hung := by
  rcases intTurbo_cases i s with ⟨_, e⟩ | ⟨_, e⟩ <;> simp [e]
@[simp] theorem csrChange_fault (i : Inst) (set clr : Word) (s : State) : (csrChange i set clr s).fault = s.fault := by
  simp [csrChange]
@[simp] theorem csrChange_refused (i : Inst) (set clr : Word) (s : State) : (csrChange i set clr s).refused = s.refused := by
  simp [csrChange]
@[simp] theorem csrChange_refusals (i : Inst) (set clr : Word) (s : State) : (csrChange i set clr s).refusals = s.refusals := by
  simp [csrChange]
@[simp] theorem csrChange_draws (i : Inst) (set clr : Word) (s : State) : (csrChange i set clr s).draws = s.draws := by
  simp [csrChange]
@[simp] theorem csrChange_inputs (i : Inst) (set clr : Word) (s : State) : (csrChange i set clr s).inputs = s.inputs := by
  simp [csrChange]
@[simp] theorem csrChange_yielded (i : Inst) (set clr : Word) (s : State) : (csrChange i set clr s).yielded = s.yielded := by
  simp [csrChange]
@[simp] theorem csrChange_mem (i : Inst) (set clr : Word) (s : State) : (csrChange i set clr s).mem = s.mem := by
  simp [csrChange]
@[simp] theorem csrChange_trace (i : Inst) (set clr : Word) (s : State) : (csrChange i set clr s).trace = s.trace := by
  simp [csrChange]
@[simp] theorem csrChange_concurrent (i : Inst) (set clr : Word) (s : State) : (csrChange i set clr s).concurrent = s.concurrent := by
  simp [csrChange]
@[simp] theorem csrChange_events (i : Inst) (set clr : Word) (s : State) : (csrChange i set clr s).events = s.events := by
  simp [csrChange]
@[simp] theorem csrChange_cfg (i : Inst) (set clr : Word) (s : State) : (csrChange i set clr s).cfg = s.cfg := by
  simp [csrChange]
@[simp] theorem csrChange_ctl_other (i : Inst) (set clr : Word) (s : State) : (csrChange i set clr s).ctl i.other = s.ctl i.other := by
  simp [csrChange]
@[simp] theorem csrChange_mode_ctl (i : Inst) (set clr : Word) (s : State) :
    ((csrChange i set clr s).ctl i).mode = (s.ctl i).mode := by
  simp [csrChange]
@[simp] theorem csrChange_rxSubscribed_ctl (i : Inst) (set clr : Word) (s : State) :
    ((csrChange i set clr s).ctl i).rxSubscribed = (s.ctl i).rxSubscribed := by
  simp [csrChange]
@[simp] theorem csrChange_tx_ctl (i : Inst) (set clr : Word) (s : State) :
    ((csrChange i set clr s).ctl i).tx = (s.ctl i).tx := by
  simp [csrChange]
@[simp] theorem csrChange_turbo_ctl (i : Inst) (set clr : Word) (s : State) :
    ((csrChange i set clr s).ctl i).turbo = (s.ctl i).turbo := by
  simp [csrChange]
@[simp] theorem csrChange_init_ctl (i : Inst) (set clr : Word) (s : State) :
    ((csrChange i set clr s).ctl i).init = (s.ctl i).init := by
  simp [csrChange]
@[simp] theorem csrChange_setup_ctl (i : Inst) (set clr : Word) (s : State) :
    ((csrChange i set clr s).ctl i).setup = (s.ctl i).setup := by
  simp [csrChange]
@[simp] theorem csrChange_queue_ctl (i : Inst) (set clr : Word) (s : State) :
    ((csrChange i set clr s).ctl i).queue = (s.ctl i).queue := by
  simp [csrChange]
@[simp] theorem csrChange_timers_ctl (i : Inst) (set clr : Word) (s : State) :
    ((csrChange i set clr s).ctl i).timers = (s.ctl i).timers := by
  simp [csrChange]
@[simp] theorem csrChange_stats_ctl (i : Inst) (set clr : Word) (s : State) :
    ((csrChange i set clr s).ctl i).stats = (s.ctl i).stats := by
  simp [csrChange]
@[simp] theorem csrChange_hung_ctl (i : Inst) (set clr : Word) (s : State) :
    ((csrChange i set clr s).ctl i).hung = (s.ctl i).hung := by
  simp [csrChange]
@[simp] theorem csrChange_csr (i : Inst) (set clr : Word) (s : State) :
    ((csrChange i set clr s).ctl i).classic = { (s.ctl i).classic with csr := csrAfter (s.ctl i).classic.csr set clr } := by
  simp [csrChange, Ctl.setCsr]

@[simp] theorem latchTurbo_fault (i : Inst) (s : State) : (latchTurbo i s).fault = s.fault := by
  simp [latchTurbo]
@[simp] theorem latchTurbo_refused (i : Inst) (s : State) : (latchTurbo i s).refused = s.refused := by
  simp [latchTurbo]
@[simp] theorem latchTurbo_refusals (i : Inst) (s : State) : (latchTurbo i s).refusals = s.refusals := by
  simp [latchTurbo]
@[simp] theorem latchTurbo_draws (i : Inst) (s : State) : (latchTurbo i s).draws = s.draws := by
  simp [latchTurbo]
@[simp] theorem latchTurbo_inputs (i : Inst) (s : State) : (latchTurbo i s).inputs = s.inputs := by
  simp [latchTurbo]
@[simp] theorem latchTurbo_yielded (i : Inst) (s : State) : (latchTurbo i s).yielded = s.yielded := by
  simp [latchTurbo]
@[simp] theorem latchTurbo_mem (i : Inst) (s : State) : (latchTurbo i s).mem = s.mem := by
  simp [latchTurbo]
@[simp] theorem latchTurbo_trace (i : Inst) (s : State) : (latchTurbo i s).trace = s.trace := by
  simp [latchTurbo]
@[simp] theorem latchTurbo_concurrent (i : Inst) (s : State) : (latchTurbo i s).concurrent = s.concurrent := by
  simp [latchTurbo]
@[simp] theorem latchTurbo_events (i : Inst) (s : State) : (latchTurbo i s).events = s.events := by
  simp [latchTurbo]
@[simp] theorem latchTurbo_cfg (i : Inst) (s : State) : (latchTurbo i s).cfg = s.cfg := by
  simp [latchTurbo]
@[simp] theorem latchTurbo_ctl_other (i : Inst) (s : State) : (latchTurbo i s).ctl i.other = s.ctl i.other := by
  simp [latchTurbo]
@[simp] theorem latchTurbo_mode_ctl (i : Inst) (s : State) :
    ((latchTurbo i s).ctl i).mode = (s.ctl i).mode := by
  simp [latchTurbo]
@[simp] theorem latchTurbo_classic_ctl (i : Inst) (s : State) :
    ((latchTurbo i s).ctl i).classic = (s.ctl i).classic := by
  simp [latchTurbo]
@[simp] theorem latchTurbo_rxSubscribed_ctl (i : Inst) (s : State) :
    ((latchTurbo i s).ctl i).rxSubscribed = (s.ctl i).rxSubscribed := by
  simp [latchTurbo]
@[simp] theorem latchTurbo_tx_ctl (i : Inst) (s : State) :
    ((latchTurbo i s).ctl i).tx = (s.ctl i).tx := by
  simp [latchTurbo]
@[simp] theorem latchTurbo_init_ctl (i : Inst) (s : State) :
    ((latchTurbo i s).ctl i).init = (s.ctl i).init := by
  simp [latchTurbo]
@[simp] theorem latchTurbo_setup_ctl (i : Inst) (s : State) :
    ((latchTurbo i s).ctl i).setup = (s.ctl i).setup := by
  simp [latchTurbo]
@[simp] theorem latchTurbo_queue_ctl (i : Inst) (s : State) :
    ((latchTurbo i s).ctl i).queue = (s.ctl i).queue := by
  simp [latchTurbo]
@[simp] theorem latchTurbo_timers_ctl (i : Inst) (s : State) :
    ((latchTurbo i s).ctl i).timers = (s.ctl i).timers := by
  simp [latchTurbo]
@[simp] theorem latchTurbo_stats_ctl (i : Inst) (s : State) :
    ((latchTurbo i s).ctl i).stats = (s.ctl i).stats := by
  simp [latchTurbo]
@[simp] theorem latchTurbo_hung_ctl (i : Inst) (s : State) :
    ((latchTurbo i s).ctl i).hung = (s.ctl i).hung := by
  simp [latchTurbo]
@[simp] theorem latchTurbo_turbo (i : Inst) (s : State) :
    ((latchTurbo i s).ctl i).turbo = { (s.ctl i).turbo with tlatch := true } := by
  simp [latchTurbo, Ctl.setTlatch]

@[simp] theorem nxmClassic_fault (i : Inst) (s : State) : (nxmClassic i s).fault = s.fault := by
  simp [nxmClassic]
@[simp] theorem nxmClassic_refused (i : Inst) (s : State) : (nxmClassic i s).refused = s.refused := by
  simp [nxmClassic]
@[simp] theorem nxmClassic_refusals (i : Inst) (s : State) : (nxmClassic i s).refusals = s.refusals := by
  simp [nxmClassic]
@[simp] theorem nxmClassic_draws (i : Inst) (s : State) : (nxmClassic i s).draws = s.draws := by
  simp [nxmClassic]
@[simp] theorem nxmClassic_inputs (i : Inst) (s : State) : (nxmClassic i s).inputs = s.inputs := by
  simp [nxmClassic]
@[simp] theorem nxmClassic_yielded (i : Inst) (s : State) : (nxmClassic i s).yielded = s.yielded := by
  simp [nxmClassic]
@[simp] theorem nxmClassic_mem (i : Inst) (s : State) : (nxmClassic i s).mem = s.mem := by
  simp [nxmClassic]
@[simp] theorem nxmClassic_trace (i : Inst) (s : State) : (nxmClassic i s).trace = s.trace := by
  simp [nxmClassic]
@[simp] theorem nxmClassic_concurrent (i : Inst) (s : State) : (nxmClassic i s).concurrent = s.concurrent := by
  simp [nxmClassic]
@[simp] theorem nxmClassic_events (i : Inst) (s : State) : (nxmClassic i s).events = s.events := by
  simp [nxmClassic]
@[simp] theorem nxmClassic_cfg (i : Inst) (s : State) : (nxmClassic i s).cfg = s.cfg := by
  simp [nxmClassic]
@[simp] theorem nxmClassic_ctl_other (i : Inst) (s : State) : (nxmClassic i s).ctl i.other = s.ctl i.other := by
  simp [nxmClassic]
@[simp] theorem nxmClassic_mode_ctl (i : Inst) (s : State) :
    ((nxmClassic i s).ctl i).mode = (s.ctl i).mode := by
  simp [nxmClassic]
@[simp] theorem nxmClassic_rxSubscribed_ctl (i : Inst) (s : State) :
    ((nxmClassic i s).ctl i).rxSubscribed = (s.ctl i).rxSubscribed := by
  simp [nxmClassic]
@[simp] theorem nxmClassic_turbo_ctl (i : Inst) (s : State) :
    ((nxmClassic i s).ctl i).turbo = (s.ctl i).turbo := by
  simp [nxmClassic]
@[simp] theorem nxmClassic_init_ctl (i : Inst) (s : State) :
    ((nxmClassic i s).ctl i).init = (s.ctl i).init := by
  simp [nxmClassic]
@[simp] theorem nxmClassic_setup_ctl (i : Inst) (s : State) :
    ((nxmClassic i s).ctl i).setup = (s.ctl i).setup := by
  simp [nxmClassic]
@[simp] theorem nxmClassic_queue_ctl (i : Inst) (s : State) :
    ((nxmClassic i s).ctl i).queue = (s.ctl i).queue := by
  simp [nxmClassic]
@[simp] theorem nxmClassic_timers_ctl (i : Inst) (s : State) :
    ((nxmClassic i s).ctl i).timers = (s.ctl i).timers := by
  simp [nxmClassic]
@[simp] theorem nxmClassic_stats_ctl (i : Inst) (s : State) :
    ((nxmClassic i s).ctl i).stats = (s.ctl i).stats := by
  simp [nxmClassic]
@[simp] theorem nxmClassic_hung_ctl (i : Inst) (s : State) :
    ((nxmClassic i s).ctl i).hung = (s.ctl i).hung := by
  simp [nxmClassic]
@[simp] theorem nxmTurbo_fault (i : Inst) (s : State) : (nxmTurbo i s).fault = s.fault := by
  simp [nxmTurbo]
@[simp] theorem nxmTurbo_refused (i : Inst) (s : State) : (nxmTurbo i s).refused = s.refused := by
  simp [nxmTurbo]
@[simp] theorem nxmTurbo_refusals (i : Inst) (s : State) : (nxmTurbo i s).refusals = s.refusals := by
  simp [nxmTurbo]
@[simp] theorem nxmTurbo_draws (i : Inst) (s : State) : (nxmTurbo i s).draws = s.draws := by
  simp [nxmTurbo]
@[simp] theorem nxmTurbo_inputs (i : Inst) (s : State) : (nxmTurbo i s).inputs = s.inputs := by
  simp [nxmTurbo]
@[simp] theorem nxmTurbo_yielded (i : Inst) (s : State) : (nxmTurbo i s).yielded = s.yielded := by
  simp [nxmTurbo]
@[simp] theorem nxmTurbo_mem (i : Inst) (s : State) : (nxmTurbo i s).mem = s.mem := by
  simp [nxmTurbo]
@[simp] theorem nxmTurbo_trace (i : Inst) (s : State) : (nxmTurbo i s).trace = s.trace := by
  simp [nxmTurbo]
@[simp] theorem nxmTurbo_concurrent (i : Inst) (s : State) : (nxmTurbo i s).concurrent = s.concurrent := by
  simp [nxmTurbo]
@[simp] theorem nxmTurbo_events (i : Inst) (s : State) : (nxmTurbo i s).events = s.events := by
  simp [nxmTurbo]
@[simp] theorem nxmTurbo_cfg (i : Inst) (s : State) : (nxmTurbo i s).cfg = s.cfg := by
  simp [nxmTurbo]
@[simp] theorem nxmTurbo_ctl_other (i : Inst) (s : State) : (nxmTurbo i s).ctl i.other = s.ctl i.other := by
  simp [nxmTurbo]
@[simp] theorem nxmTurbo_mode_ctl (i : Inst) (s : State) :
    ((nxmTurbo i s).ctl i).mode = (s.ctl i).mode := by
  simp [nxmTurbo, nxmTurboCtl]
@[simp] theorem nxmTurbo_classic_ctl (i : Inst) (s : State) :
    ((nxmTurbo i s).ctl i).classic = (s.ctl i).classic := by
  simp [nxmTurbo, nxmTurboCtl]
@[simp] theorem nxmTurbo_init_ctl (i : Inst) (s : State) :
    ((nxmTurbo i s).ctl i).init = (s.ctl i).init := by
  simp [nxmTurbo, nxmTurboCtl]
@[simp] theorem nxmTurbo_setup_ctl (i : Inst) (s : State) :
    ((nxmTurbo i s).ctl i).setup = (s.ctl i).setup := by
  simp [nxmTurbo, nxmTurboCtl]
@[simp] theorem nxmTurbo_queue_ctl (i : Inst) (s : State) :
    ((nxmTurbo i s).ctl i).queue = (s.ctl i).queue := by
  simp [nxmTurbo, nxmTurboCtl]
@[simp] theorem nxmTurbo_timers_ctl (i : Inst) (s : State) :
    ((nxmTurbo i s).ctl i).timers = (s.ctl i).timers := by
  simp [nxmTurbo, nxmTurboCtl]
@[simp] theorem nxmTurbo_stats_ctl (i : Inst) (s : State) :
    ((nxmTurbo i s).ctl i).stats = (s.ctl i).stats := by
  simp [nxmTurbo, nxmTurboCtl]
@[simp] theorem nxmTurbo_hung_ctl (i : Inst) (s : State) :
    ((nxmTurbo i s).ctl i).hung = (s.ctl i).hung := by
  simp [nxmTurbo, nxmTurboCtl]

/-! ### The coordinator's invariant -/

theorem intClassic_coordinatorOk {i : Inst} {old new : Word} {s : State} (h : coordinatorOk s = true) :
    coordinatorOk (intClassic i old new s) = true := by
  rcases intClassic_cases i old new s with ⟨_, e⟩ | ⟨_, _, e⟩ | ⟨_, _, e⟩ <;> rw [e]
  · exact setInt_coordinatorOk h
  · exact clrInt_coordinatorOk h
  · exact h

theorem intTurbo_coordinatorOk {i : Inst} {s : State} (h : coordinatorOk s = true) :
    coordinatorOk (intTurbo i s) = true := by
  rcases intTurbo_cases i s with ⟨_, e⟩ | ⟨_, e⟩ <;> rw [e]
  · exact setInt_coordinatorOk h
  · exact clrInt_coordinatorOk h

/-- A change of an instance that leaves its pending flag keeps the coordinator's invariant. -/
theorem onCtl_coordinatorOk {i : Inst} {f : Ctl → Ctl} {s : State} (hf : (f (s.ctl i)).pending = (s.ctl i).pending)
    (h : coordinatorOk s = true) : coordinatorOk (onCtl i f s) = true := by
  rw [coordinatorOk_iff] at h ⊢
  cases i <;> simp only [State.ctl_i0, State.ctl_i1] at hf <;> simp [onCtl, State.setCtl, hf, h]

theorem csrChange_coordinatorOk {i : Inst} {set clr : Word} {s : State} (h : coordinatorOk s = true) :
    coordinatorOk (csrChange i set clr s) = true :=
  intClassic_coordinatorOk (onCtl_coordinatorOk rfl h)

end Sys2Proof.Machine
end

