-- ==== Sys2Proof/Laws/Walk.lean ====
section
/-! SUPPORT. What a walk does: a property its passes keep holds at its end, and a walk whose passes end, each from a point it
has not been at before, ends where they end. -/

namespace Sys2Proof.Machine

variable {α : Type} {I : α → State → Prop} {Q : α → State → Prop} {E : State → Prop} {i : Inst}

/-- What a pass leaves when it keeps the loop property `I`. -/
def PassPost (I Q : α → State → Prop) : Pass α → State → Prop
  | .again b, t => I b t
  | .ended b, t => Q b t

/-- What a lap leaves when its passes keep the loop property `I`. -/
def LapPost (I Q : α → State → Prop) : Lap α → State → Prop
  | .more b, t => I b t
  | .ended b, t => Q b t
  | .repeated, t => ∃ b, I b t

theorem cappedWalk_piece {pass : α → Op (Pass α)} (h : ∀ a, Piece (I a) (pass a) (PassPost I Q) E)
    (hcap : ∀ a s, I a s → E (nxmState i .chainCap s)) (n : Nat) (a : α) : Piece (I a) (cappedWalk i pass n a) Q E := by
  induction n generalizing a with
  | zero => exact fun s hs => hcap a s hs
  | succ n ih =>
    refine Piece.bind (h a) fun r => ?_
    cases r with
    | again b => exact ih b
    | ended b => exact Piece.pure fun s hs => hs

theorem lap_piece {pass : α → Op (Pass α)} (h : ∀ a, Piece (I a) (pass a) (PassPost I Q) E) (mark : State) (n : Nat)
    (a : α) : Piece (I a) (lap pass mark n a) (LapPost I Q) E := by
  induction n generalizing a with
  | zero =>
    refine Piece.bind (h a) fun r => ?_
    cases r with
    | ended b => exact Piece.pure fun s hs => hs
    | again b =>
      refine Piece.bind (Q := fun _ s => I b s) (fun s hs => hs) fun back => Piece.pure fun s hs => ?_
      cases back
      · exact hs
      · exact ⟨b, hs⟩
  | succ n ih =>
    refine Piece.bind (ih a) fun r => ?_
    cases r with
    | more b => exact ih b
    | ended b => exact Piece.pure fun s hs => hs
    | repeated => exact Piece.pure fun s hs => hs

theorem laps_piece {pass : α → Op (Pass α)} (h : ∀ a, Piece (I a) (pass a) (PassPost I Q) E) (n k : Nat) (a : α) :
    Piece (I a) (laps pass n k a) (fun r t => match r with | some b => Q b t | none => ∃ b, I b t) E := by
  induction n generalizing k a with
  | zero => exact Piece.pure fun s hs => ⟨a, hs⟩
  | succ n ih =>
    refine Piece.bind (Q := fun _ s => I a s) (fun s hs => hs) fun mark => Piece.bind (lap_piece h mark k a) fun r => ?_
    cases r with
    | more b => exact ih (k + 1) b
    | ended b => exact Piece.pure fun s hs => hs
    | repeated => exact Piece.pure fun s hs => hs

/-- A property that every pass keeps, and that a hang keeps, holds of whatever a walk ends in. -/
theorem freeWalk_piece {pass : α → Op (Pass α)} (h : ∀ a, Piece (I a) (pass a) (PassPost I Q) E)
    (hh : ∀ a s, I a s → E (onCtl i (·.setHung true) s)) (a : α) : Piece (I a) (freeWalk i pass a) Q E := by
  refine Piece.bind (laps_piece h hangLaps 0 a) fun r => ?_
  cases r with
  | some b => exact Piece.pure fun s hs => hs
  | none => exact fun s ⟨b, hs⟩ => hh b s hs

/-- A property that every pass keeps, and that a hang and the walk bound's error keep, holds of whatever a classic walk
ends in. -/
theorem classicWalk_piece {pass : Unit → Op (Pass Unit)} {I E : State → Prop}
    (h : Piece I (pass ()) (PassPost (fun _ => I) fun _ => E) E)
    (hh : ∀ s, I s → E (onCtl i (·.setHung true) s)) (hcap : ∀ s, I s → E (nxmState i .chainCap s)) :
    Piece I (classicWalk i pass) (fun _ => E) E := by
  refine Piece.bind (Q := fun _ s => I s) (fun s hs => hs) fun cfg => ?_
  have hp : ∀ a : Unit, Piece ((fun _ => I) a) (pass a) (PassPost (fun _ => I) fun _ => E) E := fun _ => h
  cases hc : cfg.chainCap with
  | none => simpa only [hc] using freeWalk_piece (i := i) hp (fun _ => hh) ()
  | some n => simpa only [hc] using cappedWalk_piece (i := i) hp (fun _ => hcap) n ()

/-! ### Walks that end -/

/-- How a walk's last pass answers, as the lap it is in does. -/
def lapEnd : EStateM.Result Stop State (Pass α) → EStateM.Result Stop State (Lap α)
  | .ok (.ended b) t => .ok (.ended b) t
  | .ok (.again b) t => .ok (.more b) t
  | .error e t => .error e t

/-- How a walk's last pass answers, as the walk does. -/
def walkEnd : EStateM.Result Stop State (Pass α) → EStateM.Result Stop State α
  | .ok (.ended b) t => .ok b t
  | .ok (.again b) t => .ok b t
  | .error e t => .error e t

/-- `N` passes that go on, from points all different, and one that does not. -/
structure Ends (pass : α → Op (Pass α)) (a : Nat → α) (σ : Nat → State) (N : Nat) : Prop where
  goesOn : ∀ n < N, pass (a n) (σ n) = .ok (.again (a (n + 1))) (σ (n + 1))
  stops : ∀ b t, pass (a N) (σ N) ≠ .ok (.again b) t
  differ : ∀ m n, m < n → n ≤ N → sameWalk (σ m) (σ n) = false

theorem lap_of_ends {pass : α → Op (Pass α)} {a : Nat → α} {σ : Nat → State} {N : Nat} (h : Ends pass a σ N) (k : Nat) :
    ∀ p n, p ≤ n → n ≤ N →
      lap pass (σ p) k (a n) (σ n)
        = if n + 2 ^ k ≤ N then .ok (.more (a (n + 2 ^ k))) (σ (n + 2 ^ k)) else lapEnd (pass (a N) (σ N)) := by
  induction k with
  | zero =>
    intro p n hp hn
    rw [Nat.pow_zero, lap, op_bind]
    by_cases hN : n + 1 ≤ N
    · rw [if_pos hN, h.goesOn n (by omega)]
      simp only
      rw [op_bind_ok (ask_apply _ _), h.differ p (n + 1) (by omega) hN]
      rfl
    · have : n = N := by omega
      subst this
      rw [if_neg hN]
      cases hp : pass (a n) (σ n) with
      | error e t => rfl
      | ok r t =>
        cases r with
        | again b => exact absurd hp (h.stops b t)
        | ended b => rfl
  | succ k ih =>
    intro p n hp hn
    have hk : 2 ^ (k + 1) = 2 ^ k + 2 ^ k := by rw [Nat.pow_succ]; omega
    rw [lap, op_bind, ih p n hp hn, hk, ← Nat.add_assoc]
    by_cases h1 : n + 2 ^ k ≤ N
    · rw [if_pos h1]
      simp only
      rw [ih p (n + 2 ^ k) (Nat.le_trans hp (Nat.le_add_right _ _)) h1]
    · have h2 : ¬n + 2 ^ k + 2 ^ k ≤ N := fun h2 => h1 (Nat.le_trans (Nat.le_add_right _ _) h2)
      rw [if_neg h1, if_neg h2]
      cases hp : pass (a N) (σ N) with
      | error e t => rfl
      | ok r t =>
        cases r with
        | again b => exact absurd hp (h.stops b t)
        | ended b => rfl

theorem laps_of_ends {pass : α → Op (Pass α)} {a : Nat → α} {σ : Nat → State} {N : Nat} (h : Ends pass a σ N) (n : Nat) :
    ∀ k p, p ≤ N → N + 2 ^ k < p + 2 ^ (k + n) →
      laps pass n k (a p) (σ p)
        = match walkEnd (pass (a N) (σ N)) with
          | .ok b t => .ok (some b) t
          | .error e t => .error e t := by
  induction n with
  | zero => intro k p hp hN; rw [Nat.add_zero] at hN; omega
  | succ n ih =>
    intro k p hp hN
    rw [laps, op_bind_ok (ask_apply id (σ p)), op_bind]
    simp only [id]
    rw [lap_of_ends h k p p (Nat.le_refl p) hp]
    by_cases h1 : p + 2 ^ k ≤ N
    · rw [if_pos h1]
      simp only
      refine ih (k + 1) (p + 2 ^ k) h1 ?_
      have e : k + 1 + n = k + (n + 1) := by omega
      rw [e, Nat.pow_succ]
      omega
    · rw [if_neg h1]
      cases hp : pass (a N) (σ N) with
      | error e t => rfl
      | ok r t =>
        cases r with
        | again b => exact absurd hp (h.stops b t)
        | ended b => rfl

theorem lt_two_pow_of_large {N L : Nat} (h : N < 2 ^ 26) (hL : 27 ≤ L) : N + 2 ^ 0 < 0 + 2 ^ (0 + L) := by
  have h2 : 2 ^ 27 ≤ 2 ^ L := Nat.pow_le_pow_right (by decide) hL
  rw [Nat.zero_add, Nat.zero_add, Nat.pow_zero]
  exact Nat.lt_of_lt_of_le (by omega) h2

theorem hangLaps_large : 27 ≤ hangLaps := by decide

/-- A walk whose passes end, from points all different, ends as the last of them does. -/
theorem freeWalk_of_ends {pass : α → Op (Pass α)} {a : Nat → α} {σ : Nat → State} {N : Nat} (h : Ends pass a σ N)
    (hN : N < 2 ^ 26) : freeWalk i pass (a 0) (σ 0) = walkEnd (pass (a N) (σ N)) := by
  rw [freeWalk, op_bind, laps_of_ends h hangLaps 0 0 (Nat.zero_le N) (lt_two_pow_of_large hN hangLaps_large)]
  cases hp : pass (a N) (σ N) with
  | error e t => rfl
  | ok r t =>
    cases r with
    | again b => exact absurd hp (h.stops b t)
    | ended b => rfl

/-- A walk whose first pass is its last. -/
theorem freeWalk_of_first {pass : α → Op (Pass α)} {a b : α} {s t : State} (h : pass a s = .ok (.ended b) t) :
    freeWalk i pass a s = .ok b t := by
  have e : Ends pass (fun _ => a) (fun _ => s) 0 :=
    { goesOn := fun n hn => absurd hn (Nat.not_lt_zero n)
      stops := fun b' t' => by simp only [h]; intro hc; injection hc with hc; injection hc
      differ := fun m n hmn hn => by omega }
  have := freeWalk_of_ends (i := i) e (by decide)
  simpa only [h, walkEnd] using this

/-- A walk whose first pass ends the step. -/
theorem freeWalk_of_first_error {pass : α → Op (Pass α)} {a : α} {s t : State} {e : Stop} (h : pass a s = .error e t) :
    freeWalk i pass a s = .error e t := by
  have e : Ends pass (fun _ => a) (fun _ => s) 0 :=
    { goesOn := fun n hn => absurd hn (Nat.not_lt_zero n)
      stops := fun b' t' => by simp only [h]; intro hc; injection hc
      differ := fun m n hmn hn => by omega }
  have := freeWalk_of_ends (i := i) e (by decide)
  simpa only [h, walkEnd] using this

/-- The classic walk whose first pass is its last, under any bound that lets it be made. -/
theorem classicWalk_of_first {pass : Unit → Op (Pass Unit)} {s t : State} (hc : s.cfg.chainCap ≠ some 0)
    (h : pass () s = .ok (.ended ()) t) : classicWalk i pass s = .ok () t := by
  rw [classicWalk, op_bind_ok (getCfg_apply s)]
  cases hcap : s.cfg.chainCap with
  | none => exact freeWalk_of_first h
  | some n =>
    cases n with
    | zero => exact absurd hcap hc
    | succ n => simp only [cappedWalk]; rw [op_bind_ok h]; rfl

end Sys2Proof.Machine
end

