-- ==== Sys2Proof/Laws/PerInstr.lean ====
section
/-! SUPPORT. A statement about every operation, made one operation at a time: its record starts with a 6-bit code and is as
long as that code's operand needs (rules R76 to R78). -/

namespace Sys2Proof.Laws.Encoding

/-- The record of a well-formed operation starts with a code byte that holds a 6-bit code, and has the bytes that code
needs. -/
def Statement (i : Instr) : Prop :=
  i.wellFormed = true →
    ∃ code rest, encode i = code :: rest ∧ code < 0x40 ∧ recordBytes code ≤ rest.length + 1

/-- A record whose code and length are plain. -/
theorem of_record {i : Instr} (code : Byte) (rest : List Byte) (h : encode i = code :: rest) (hc : code < 0x40)
    (n : Nat) (hn : recordBytes code ≤ n + 1) (hr : n ≤ rest.length) : Statement i :=
  fun _ => ⟨code, rest, h, hc, Nat.le_trans hn (Nat.succ_le_succ hr)⟩

theorem lRdSa0 (i : Inst) : Statement (.lRdSa0 i) := of_record _ _ rfl (by decide) 1 (by decide) (Nat.le_refl _)
theorem lRdSa1 (i : Inst) : Statement (.lRdSa1 i) := of_record _ _ rfl (by decide) 1 (by decide) (Nat.le_refl _)
theorem lRdSa2 (i : Inst) : Statement (.lRdSa2 i) := of_record _ _ rfl (by decide) 1 (by decide) (Nat.le_refl _)
theorem lRdSa3 (i : Inst) : Statement (.lRdSa3 i) := of_record _ _ rfl (by decide) 1 (by decide) (Nat.le_refl _)
theorem lRdSa4 (i : Inst) : Statement (.lRdSa4 i) := of_record _ _ rfl (by decide) 1 (by decide) (Nat.le_refl _)
theorem lRdSa5 (i : Inst) : Statement (.lRdSa5 i) := of_record _ _ rfl (by decide) 1 (by decide) (Nat.le_refl _)
theorem lRdVar (i : Inst) : Statement (.lRdVar i) := of_record _ _ rfl (by decide) 1 (by decide) (Nat.le_refl _)
theorem lRdCsr (i : Inst) : Statement (.lRdCsr i) := of_record _ _ rfl (by decide) 1 (by decide) (Nat.le_refl _)
theorem lWrSa0 (i : Inst) (d : Word) : Statement (.lWrSa0 i d) := of_record _ _ rfl (by decide) 3 (by decide) (Nat.le_refl _)
theorem lWrSa1 (i : Inst) (d : Word) : Statement (.lWrSa1 i d) := of_record _ _ rfl (by decide) 3 (by decide) (Nat.le_refl _)
theorem lWrRbdlLo (i : Inst) (d : Word) : Statement (.lWrRbdlLo i d) := of_record _ _ rfl (by decide) 3 (by decide) (Nat.le_refl _)
theorem lWrRbdlHi (i : Inst) (d : Word) : Statement (.lWrRbdlHi i d) := of_record _ _ rfl (by decide) 3 (by decide) (Nat.le_refl _)
theorem lWrXbdlLo (i : Inst) (d : Word) : Statement (.lWrXbdlLo i d) := of_record _ _ rfl (by decide) 3 (by decide) (Nat.le_refl _)
theorem lWrXbdlHi (i : Inst) (d : Word) : Statement (.lWrXbdlHi i d) := of_record _ _ rfl (by decide) 3 (by decide) (Nat.le_refl _)
theorem lWrVar (i : Inst) (d : Word) : Statement (.lWrVar i d) := of_record _ _ rfl (by decide) 3 (by decide) (Nat.le_refl _)
theorem lWrCsr (i : Inst) (d : Word) : Statement (.lWrCsr i d) := of_record _ _ rfl (by decide) 3 (by decide) (Nat.le_refl _)
theorem cRdSa0 (i : Inst) : Statement (.cRdSa0 i) := of_record _ _ rfl (by decide) 1 (by decide) (Nat.le_refl _)
theorem cRdSa1 (i : Inst) : Statement (.cRdSa1 i) := of_record _ _ rfl (by decide) 1 (by decide) (Nat.le_refl _)
theorem cRdSa2 (i : Inst) : Statement (.cRdSa2 i) := of_record _ _ rfl (by decide) 1 (by decide) (Nat.le_refl _)
theorem cRdSa3 (i : Inst) : Statement (.cRdSa3 i) := of_record _ _ rfl (by decide) 1 (by decide) (Nat.le_refl _)
theorem cRdSa4 (i : Inst) : Statement (.cRdSa4 i) := of_record _ _ rfl (by decide) 1 (by decide) (Nat.le_refl _)
theorem cRdSa5 (i : Inst) : Statement (.cRdSa5 i) := of_record _ _ rfl (by decide) 1 (by decide) (Nat.le_refl _)
theorem cRdVar (i : Inst) : Statement (.cRdVar i) := of_record _ _ rfl (by decide) 1 (by decide) (Nat.le_refl _)
theorem cRdCsr (i : Inst) : Statement (.cRdCsr i) := of_record _ _ rfl (by decide) 1 (by decide) (Nat.le_refl _)
theorem cWrSa0 (i : Inst) (d : Word) : Statement (.cWrSa0 i d) := of_record _ _ rfl (by decide) 3 (by decide) (Nat.le_refl _)
theorem cWrSa1 (i : Inst) (d : Word) : Statement (.cWrSa1 i d) := of_record _ _ rfl (by decide) 3 (by decide) (Nat.le_refl _)
theorem cWrRbdlLo (i : Inst) (d : Word) : Statement (.cWrRbdlLo i d) := of_record _ _ rfl (by decide) 3 (by decide) (Nat.le_refl _)
theorem cWrRbdlHi (i : Inst) (d : Word) : Statement (.cWrRbdlHi i d) := of_record _ _ rfl (by decide) 3 (by decide) (Nat.le_refl _)
theorem cWrXbdlLo (i : Inst) (d : Word) : Statement (.cWrXbdlLo i d) := of_record _ _ rfl (by decide) 3 (by decide) (Nat.le_refl _)
theorem cWrXbdlHi (i : Inst) (d : Word) : Statement (.cWrXbdlHi i d) := of_record _ _ rfl (by decide) 3 (by decide) (Nat.le_refl _)
theorem cWrVar (i : Inst) (d : Word) : Statement (.cWrVar i d) := of_record _ _ rfl (by decide) 3 (by decide) (Nat.le_refl _)
theorem cWrCsr (i : Inst) (d : Word) : Statement (.cWrCsr i d) := of_record _ _ rfl (by decide) 3 (by decide) (Nat.le_refl _)
theorem tRdSa0 (i : Inst) : Statement (.tRdSa0 i) := of_record _ _ rfl (by decide) 1 (by decide) (Nat.le_refl _)
theorem tRdSa1 (i : Inst) : Statement (.tRdSa1 i) := of_record _ _ rfl (by decide) 1 (by decide) (Nat.le_refl _)
theorem tRdSa2 (i : Inst) : Statement (.tRdSa2 i) := of_record _ _ rfl (by decide) 1 (by decide) (Nat.le_refl _)
theorem tRdSa3 (i : Inst) : Statement (.tRdSa3 i) := of_record _ _ rfl (by decide) 1 (by decide) (Nat.le_refl _)
theorem tRdSa4 (i : Inst) : Statement (.tRdSa4 i) := of_record _ _ rfl (by decide) 1 (by decide) (Nat.le_refl _)
theorem tRdSa5 (i : Inst) : Statement (.tRdSa5 i) := of_record _ _ rfl (by decide) 1 (by decide) (Nat.le_refl _)
theorem tRdSrr (i : Inst) : Statement (.tRdSrr i) := of_record _ _ rfl (by decide) 1 (by decide) (Nat.le_refl _)
theorem tRdRsv (i : Inst) : Statement (.tRdRsv i) := of_record _ _ rfl (by decide) 1 (by decide) (Nat.le_refl _)
theorem tWrIgn0 (i : Inst) (d : Word) : Statement (.tWrIgn0 i d) := of_record _ _ rfl (by decide) 3 (by decide) (Nat.le_refl _)
theorem tWrIgn1 (i : Inst) (d : Word) : Statement (.tWrIgn1 i d) := of_record _ _ rfl (by decide) 3 (by decide) (Nat.le_refl _)
theorem tWrIbaLo (i : Inst) (d : Word) : Statement (.tWrIbaLo i d) := of_record _ _ rfl (by decide) 3 (by decide) (Nat.le_refl _)
theorem tWrIbaHi (i : Inst) (d : Word) : Statement (.tWrIbaHi i d) := of_record _ _ rfl (by decide) 3 (by decide) (Nat.le_refl _)
theorem tWrIcr (i : Inst) (d : Word) : Statement (.tWrIcr i d) := of_record _ _ rfl (by decide) 3 (by decide) (Nat.le_refl _)
theorem tWrIgn5 (i : Inst) (d : Word) : Statement (.tWrIgn5 i d) := of_record _ _ rfl (by decide) 3 (by decide) (Nat.le_refl _)
theorem tWrSrqr (i : Inst) (d : Word) : Statement (.tWrSrqr i d) := of_record _ _ rfl (by decide) 3 (by decide) (Nat.le_refl _)
theorem tWrArqr (i : Inst) (d : Word) : Statement (.tWrArqr i d) := of_record _ _ rfl (by decide) 3 (by decide) (Nat.le_refl _)
theorem ack : Statement (.ack) := of_record _ _ rfl (by decide) 0 (by decide) (Nat.le_refl _)
theorem tick (i : Inst) : Statement (.tick i) := of_record _ _ rfl (by decide) 1 (by decide) (Nat.le_refl _)
theorem rxf (i : Inst) (frame : List Byte) : Statement (.rxf i frame) := of_record _ _ rfl (by decide) 1 (by decide) (by simp)
theorem txdone (i : Inst) (status : TxStatus) (tag : Nat) : Statement (.txdone i status tag) := of_record _ _ rfl (by decide) 2 (by decide) (by simp)
theorem stdone (i : Inst) : Statement (.stdone i) := of_record _ _ rfl (by decide) 1 (by decide) (Nat.le_refl _)
theorem busreset : Statement (.busreset) := of_record _ _ rfl (by decide) 0 (by decide) (Nat.le_refl _)
theorem poweron : Statement (.poweron) := of_record _ _ rfl (by decide) 0 (by decide) (Nat.le_refl _)
theorem reserved37 : Statement (.reserved37) := of_record _ _ rfl (by decide) 0 (by decide) (Nat.le_refl _)
theorem reserved38to3F (code : BitVec 6) : Statement (.reserved38to3F code) := by
  intro h
  refine ⟨code.setWidth 8, [], rfl, ?_, ?_⟩
  · have := code.isLt
    bv_omega
  · have h : (0x38 : BitVec 6) ≤ code := by simpa [Instr.wellFormed] using h
    revert h
    revert code
    decide

end Sys2Proof.Laws.Encoding
end

