-- ==== Sys2Proof/Tests/Slice0.lean ====
section
/-! SUPPORT. Tests: the well-formedness checks, the decoding of words written out from spec/, steps with results from the
examples of spec/, and for each statement with hypotheses a state and operands that meet them. -/

namespace Sys2Proof.Tests

open Sys2Proof Sys2Proof.Machine

/-! ### Well-formedness: for each check a term that breaks it -/

/-- The test configuration with its turbo layout changed. -/
def withLayout (f : TurboLayout → TurboLayout) : Config := { Config.test with layout := f Config.test.layout }

theorem test_config_wf : Config.test.wellFormed = true := by decide

theorem test_wf_reserved : (Instr.reserved38to3F 0x37).wellFormed = false
    ∧ (Instr.reserved38to3F 0x38).wellFormed = true := by decide

theorem test_wf_sizes :
    { Config.test with readqCap := 0 }.wellFormed = false
      ∧ { Config.test with txbufMax := 1513 }.wellFormed = false
      ∧ { Config.test with sysidPeriod := 0 }.wellFormed = false
      ∧ { Config.test with rxRingN := 0 }.wellFormed = false
      ∧ { Config.test with txRingN := 0 }.wellFormed = false := by decide

theorem test_wf_layout_bits :
    (withLayout ({ · with srqStart := 16 })).wellFormed = false
      ∧ (withLayout ({ · with arqTrq := 7 })).wellFormed = false
      ∧ (withLayout ({ · with icrEn := 16 })).wellFormed = false
      ∧ (withLayout ({ · with srrTa := 1 })).wellFormed = false
      ∧ (withLayout ({ · with stp := 11 })).wellFormed = false
      ∧ (withLayout ({ · with err := 0 })).wellFormed = false
      ∧ (withLayout ({ · with cntBits := 11 })).wellFormed = false
      ∧ (withLayout ({ · with eor := 15 })).wellFormed = false
      ∧ (withLayout ({ · with prom := 16 })).wellFormed = false
      ∧ (withLayout ({ · with slotAddrHiLo := 11 })).wellFormed = false
      ∧ (withLayout ({ · with slotAddrHiLo := 10, rxRingHiLo := 10, txRingHiLo := 10 })).wellFormed = true
      ∧ (withLayout ({ · with rxRingHiLo := 11 })).wellFormed = false
      ∧ (withLayout ({ · with txRingHiLo := 11 })).wellFormed = false := by decide

theorem test_wf_layout_words :
    (withLayout ({ · with slotAddrHi := 0 })).wellFormed = false
      ∧ (withLayout ({ · with slotOwner := 10 })).wellFormed = false
      ∧ (withLayout ({ · with slotBytes := 11 })).wellFormed = false
      ∧ (withLayout ({ · with ibVector := 19 })).wellFormed = false
      ∧ (withLayout ({ · with ibTxRingHi := 35 })).wellFormed = false := by decide

/-- The init block's fields out of the source's order, overlapping, or a ring base's two words in one place; its two words
exchanged are allowed. -/
theorem test_wf_layout_order :
    (withLayout ({ · with ibOpts := 18, ibVector := 16 })).wellFormed = false
      ∧ (withLayout ({ · with ibPhys := 1 })).wellFormed = false
      ∧ (withLayout ({ · with passwordBytes := 7 })).wellFormed = false
      ∧ (withLayout ({ · with ibRxRing := 32, ibTxRing := 28 })).wellFormed = false
      ∧ (withLayout ({ · with ibRxRingHi := 28 })).wellFormed = false
      ∧ (withLayout ({ · with ibRxRing := 30, ibRxRingHi := 28 })).wellFormed = true := by decide

theorem test_wf_setup_bits : { Config.test with setupBits := { Config.test.setupBits with pm := 0 } }.wellFormed = false := by
  decide

theorem test_wf_windows :
    { Config.test with unit0.base := 0o17774441 }.wellFormed = false
      ∧ { Config.test with unit1.base := 0o17774446 }.wellFormed = false
      ∧ { Config.test with unit1.base := 0x3FFFF2 }.wellFormed = false := by decide

/-! ### Decoding: each row's code of rules R76 to R78, with its operand -/

/-- Class 00: codes 0x00 + slot for reads, 0x08 + slot for writes. -/
theorem test_decode_legacy :
    decode [0x00, 0x00] = .ok (.lRdSa0 .i0)
      ∧ decode [0x01, 0x00] = .ok (.lRdSa1 .i0)
      ∧ decode [0x02, 0x00] = .ok (.lRdSa2 .i0)
      ∧ decode [0x03, 0x00] = .ok (.lRdSa3 .i0)
      ∧ decode [0x04, 0x00] = .ok (.lRdSa4 .i0)
      ∧ decode [0x05, 0x00] = .ok (.lRdSa5 .i0)
      ∧ decode [0x06, 0x00] = .ok (.lRdVar .i0)
      ∧ decode [0x07, 0x00] = .ok (.lRdCsr .i0)
      ∧ decode [0x08, 0x00, 0x34, 0x12] = .ok (.lWrSa0 .i0 0x1234)
      ∧ decode [0x09, 0x00, 0x34, 0x12] = .ok (.lWrSa1 .i0 0x1234)
      ∧ decode [0x0A, 0x00, 0x34, 0x12] = .ok (.lWrRbdlLo .i0 0x1234)
      ∧ decode [0x0B, 0x00, 0x34, 0x12] = .ok (.lWrRbdlHi .i0 0x1234)
      ∧ decode [0x0C, 0x00, 0x34, 0x12] = .ok (.lWrXbdlLo .i0 0x1234)
      ∧ decode [0x0D, 0x00, 0x34, 0x12] = .ok (.lWrXbdlHi .i0 0x1234)
      ∧ decode [0x0E, 0x00, 0x34, 0x12] = .ok (.lWrVar .i0 0x1234)
      ∧ decode [0x0F, 0x00, 0x34, 0x12] = .ok (.lWrCsr .i0 0x1234) := by
  decide

/-- Class 01. -/
theorem test_decode_compatible :
    decode [0x10, 0x01] = .ok (.cRdSa0 .i1)
      ∧ decode [0x11, 0x01] = .ok (.cRdSa1 .i1)
      ∧ decode [0x12, 0x01] = .ok (.cRdSa2 .i1)
      ∧ decode [0x13, 0x01] = .ok (.cRdSa3 .i1)
      ∧ decode [0x14, 0x01] = .ok (.cRdSa4 .i1)
      ∧ decode [0x15, 0x01] = .ok (.cRdSa5 .i1)
      ∧ decode [0x16, 0x01] = .ok (.cRdVar .i1)
      ∧ decode [0x17, 0x01] = .ok (.cRdCsr .i1)
      ∧ decode [0x18, 0x01, 0x34, 0x12] = .ok (.cWrSa0 .i1 0x1234)
      ∧ decode [0x19, 0x01, 0x34, 0x12] = .ok (.cWrSa1 .i1 0x1234)
      ∧ decode [0x1A, 0x01, 0x34, 0x12] = .ok (.cWrRbdlLo .i1 0x1234)
      ∧ decode [0x1B, 0x01, 0x34, 0x12] = .ok (.cWrRbdlHi .i1 0x1234)
      ∧ decode [0x1C, 0x01, 0x34, 0x12] = .ok (.cWrXbdlLo .i1 0x1234)
      ∧ decode [0x1D, 0x01, 0x34, 0x12] = .ok (.cWrXbdlHi .i1 0x1234)
      ∧ decode [0x1E, 0x01, 0x34, 0x12] = .ok (.cWrVar .i1 0x1234)
      ∧ decode [0x1F, 0x01, 0x34, 0x12] = .ok (.cWrCsr .i1 0x1234) := by
  decide

/-- Class 10. -/
theorem test_decode_turbo :
    decode [0x20, 0x00] = .ok (.tRdSa0 .i0)
      ∧ decode [0x21, 0x00] = .ok (.tRdSa1 .i0)
      ∧ decode [0x22, 0x00] = .ok (.tRdSa2 .i0)
      ∧ decode [0x23, 0x00] = .ok (.tRdSa3 .i0)
      ∧ decode [0x24, 0x00] = .ok (.tRdSa4 .i0)
      ∧ decode [0x25, 0x00] = .ok (.tRdSa5 .i0)
      ∧ decode [0x26, 0x00] = .ok (.tRdSrr .i0)
      ∧ decode [0x27, 0x00] = .ok (.tRdRsv .i0)
      ∧ decode [0x28, 0x00, 0x34, 0x12] = .ok (.tWrIgn0 .i0 0x1234)
      ∧ decode [0x29, 0x00, 0x34, 0x12] = .ok (.tWrIgn1 .i0 0x1234)
      ∧ decode [0x2A, 0x00, 0x34, 0x12] = .ok (.tWrIbaLo .i0 0x1234)
      ∧ decode [0x2B, 0x00, 0x34, 0x12] = .ok (.tWrIbaHi .i0 0x1234)
      ∧ decode [0x2C, 0x00, 0x34, 0x12] = .ok (.tWrIcr .i0 0x1234)
      ∧ decode [0x2D, 0x00, 0x34, 0x12] = .ok (.tWrIgn5 .i0 0x1234)
      ∧ decode [0x2E, 0x00, 0x34, 0x12] = .ok (.tWrSrqr .i0 0x1234)
      ∧ decode [0x2F, 0x00, 0x34, 0x12] = .ok (.tWrArqr .i0 0x1234) := by
  decide

/-- Class 11: the seven events and the codes that name none. -/
theorem test_decode_events :
    decode [0x30] = .ok .ack
      ∧ decode [0x31, 0x01] = .ok (.tick .i1)
      ∧ decode [0x32, 0x00, 0xAA, 0xBB] = .ok (.rxf .i0 [0xAA, 0xBB])
      ∧ decode [0x33, 0x01, 0x00, 0x03] = .ok (.txdone .i1 .ok 3)
      ∧ decode [0x33, 0x00, 0x01, 0x02, 0x01] = .ok (.txdone .i0 .fail 258)
      ∧ decode [0x34, 0x01] = .ok (.stdone .i1)
      ∧ decode [0x35] = .ok .busreset
      ∧ decode [0x36] = .ok .poweron
      ∧ decode [0x37] = .ok .reserved37
      ∧ decode [0x38] = .ok (.reserved38to3F 0x38)
      ∧ decode [0x39] = .ok (.reserved38to3F 0x39)
      ∧ decode [0x3A] = .ok (.reserved38to3F 0x3A)
      ∧ decode [0x3B] = .ok (.reserved38to3F 0x3B)
      ∧ decode [0x3C] = .ok (.reserved38to3F 0x3C)
      ∧ decode [0x3D] = .ok (.reserved38to3F 0x3D)
      ∧ decode [0x3E] = .ok (.reserved38to3F 0x3E)
      ∧ decode [0x3F] = .ok (.reserved38to3F 0x3F) := by
  decide

/-- Records that are no operation. -/
theorem test_decode_refused :
    decode [] = .error .empty
      ∧ decode [0x40, 0x00] = .error .badCode
      ∧ decode [0x06, 0x02] = .error .badInstance
      ∧ decode [0x06] = .error .badInstance
      ∧ decode [0x33, 0x00, 0x02] = .error .badStatus
      ∧ decode [0x33, 0x00] = .error .badStatus
      ∧ decode [0x0E, 0x00, 0x34] = .error .badLength
      ∧ decode [0x30, 0x00] = .error .badLength := by
  decide

/-- The codes of the opcode table's rows as table words. -/
theorem test_table_words :
    decodeTableWord 6 0x06 = some (.lRdVar .i0)
      ∧ decodeTableWord 6 0x1F = some (.cWrCsr .i0 0)
      ∧ decodeTableWord 6 0x32 = some (.rxf .i0 [])
      ∧ decodeTableWord 6 0x33 = some (.txdone .i0 .ok 0)
      ∧ decodeTableWord 6 0x3F = some (.reserved38to3F 0x3F) := by
  decide

/-! ### Steps with results from the examples of spec/ -/

/-- What holds of the next state. -/
def nextHas (o : Host.Outcome State Fault Refusal) (p : State → Bool) : Bool :=
  match o with
  | .next t => p t
  | _ => false

/-- The reset state with instance 1 changed: type compatible, mode compatible. -/
def with1 (f : Ctl → Ctl) : State := onCtl .i1 f State.reset

/-- The reset state with instance 0 changed: type turbo, mode compatible. -/
def with0 (f : Ctl → Ctl) : State := onCtl .i0 f State.reset

/-- The reset state with instance 0 in turbo mode and changed. -/
def turbo0 (f : Ctl → Ctl) : State := with0 fun c => f (turboEnterCtl c)

/-- A word in memory, as its two cells. -/
def cells (a : Nat) (w : Word) : List Host.Cell := [(a, lowByte w), (a + 1, highByte w)]

/-- A state under another configuration. -/
def under (cfg : Config) (s : State) : State := { s with cfg := cfg }

/-- A state with these cells in memory, given in rising order; cells of 0 are not listed. -/
def holding (m : List Host.Cell) (s : State) : State := s.setMem (m.filter fun c => c.2 != 0)

/-- The reset state: CSR 0x0030, VAR 0x8000, mode compatible (rules R217, R222). -/
theorem test_reset_registers :
    State.reset.i0.classic.csr = 0x0030 ∧ State.reset.i0.classic.var = 0x8000 ∧ State.reset.i0.mode = .compatible
      ∧ State.reset.i1.tx.gen = 1 ∧ State.reset.line = false := by decide

/-- Rule R113's example: stored CSR 0x8071, written 0x8041, gives 0x0071. -/
theorem test_csr_write :
    nextHas (exec (.cWrCsr .i1 0x8041) (with1 (·.setCsr 0x8071))) (·.i1.classic.csr == 0x0071) = true := by decide

/-- Rule R112's example: a compatible type, VAR written 0x0120, gives VAR 0x0120 in legacy mode. -/
theorem test_var_write :
    nextHas (exec (.cWrVar .i1 0x0120) State.reset) (fun t => t.i1.classic.var == 0x0120 && t.i1.mode == .legacy)
      = true := by decide

/-- Rule R106's example: CSR reads 0x1030 but for bit 13. -/
theorem test_csr_read :
    (csrRead State.reset.i0.classic.csr false State.reset.cfg.unit0.attached) = 0x1030
      ∧ (csrRead State.reset.i0.classic.csr true State.reset.cfg.unit0.attached) = 0x3030 := by decide

/-- The test configuration's checksums: CHK[0] = (0x05, 0x78), CHK[1] = (0x0E, 0x7B) (95_test_vectors.md). -/
theorem test_checksum :
    chkByte Config.test.unit0.mac 0 = 0x05 ∧ chkByte Config.test.unit0.mac 1 = 0x78
      ∧ chkByte Config.test.unit1.mac 0 = 0x0E ∧ chkByte Config.test.unit1.mac 1 = 0x7B := by decide

/-- Vector V1 c of 95_test_vectors.md. -/
theorem test_descriptor_words :
    let d := encodeDesc 0x4001 61 { valid := true, chain := false, eom := true, setup := false }
    d.w1 = 0xA040 ∧ d.w2 = 0x4000 ∧ d.w3 = 0xFFE1 ∧ descStart d = 0x4001 ∧ descLen d = 61 := by decide

/-- Scenario C: the handshake enters turbo mode, and SRR reads 0x2000. -/
theorem test_handshake :
    nextHas (exec (.cWrRbdlHi .i0 0x5A5A) (with0 (·.setRbdlLo 0xA5A5)))
      (fun t => t.i0.mode == .turbo && srrWord t.cfg.layout t.i0.turbo.srr == 0x2000 && t.i0.classic.rptr == 0) = true := by
  decide

/-- Scenario D: SE arms the timer with one tick, and the tick emits one reboot. -/
theorem test_sanity_reboot :
    nextHas (exec (.cWrCsr .i1 0x0400) State.reset) (fun t => t.i1.timers.sanArmed && t.i1.timers.sanCount == 1) = true
      ∧ nextHas (exec (.tick .i1) (with1 sanityArmCtl)) (fun t => decide (.reboot .i1 ∈ t.events) && !t.i1.timers.sanArmed)
        = true := by decide

/-- Rule R199's example: pending = [false, true], VAR[1] = 0x0124, gives 0x0124 and the line drops. -/
theorem test_ack :
    nextHas (exec .ack ((with1 fun c => (c.setVar 0x0124).setPending true).setCoord 1 true))
      (fun t => t.yielded == .vector (some 0x0124) && !t.line && !t.i1.pending) = true := by decide

/-- Vector V23: a list base above the test memory is an NXM, CSR 0x00F4 with IE set, and the request is pending. -/
theorem test_nxm :
    nextHas (exec (.cWrRbdlHi .i1 0x003F) (with1 (·.setCsr 0x0070)))
      (fun t => t.i1.classic.csr == 0x00F4 && t.i1.pending && t.line && t.i1.classic.rptr == 0x3F0000) = true := by decide

/-- Vector V24: a START whose init block is above the test memory gives SRR 0xE002. -/
theorem test_start_fails :
    nextHas (exec (.tWrSrqr .i0 1) (turbo0 (·.setIba 0x3F0000)))
      (fun t => srrWord t.cfg.layout t.i0.turbo.srr == 0xE002 && t.i0.turbo.tlatch) = true := by decide

/-- Scenario A's delivery: the second status word, the barrier and the first come after the bytes, RI and RL are set, and
the pointer is at the next descriptor. -/
theorem test_delivery :
    nextHas
      (exec (.rxf .i1 [0xAA])
        (holding (cells 0x1002 0x8000 ++ cells 0x1004 0x4000 ++ cells 0x1006 0xFD0B)
          (with1 fun c => ((c.setCsr 0x0051).setRxSubscribed true).setRptr 0x1000)))
      (fun t => t.trace.drop 60 == [.word 0x100A 0, .barrier, .word 0x1008 0] && t.i1.classic.csr == 0x8071
        && t.i1.classic.rptr == 0x100C && t.i1.pending && t.line) = true := by decide

/-! ### Witnesses: a state and operands that meet each statement's hypotheses, for each of its clauses -/

/-- Instance 0 as the handshake and a START with empty rings at address 0 leave it. -/
def started0 (f : Ctl → Ctl) : State := turbo0 fun c => f ((c.setRingsStarted true).setRxSubscribed true)

theorem witness_DecodeEncode :
    (Instr.reserved38to3F 0x38).wellFormed = true ∧ (Instr.reserved38to3F 0x3F).wellFormed = true
      ∧ (Instr.txdone .i1 .fail 65536).wellFormed = true := by decide

theorem witness_EncodeDecode :
    decode [0x07, 0x01] = .ok (.lRdCsr .i1) ∧ decode [0x33, 0x00, 0x00, 0x01, 0x00] = .ok (.txdone .i0 .ok 1) := by decide

theorem witness_BusAccess :
    State.reset.fault = none ∧ coordinatorOk State.reset = true ∧ State.reset.cfg.windowsFit = true := by decide

/-- A read of instance 0's CSR; a write of it, with a driver write waiting that it finds landed. -/
theorem witness_StepRunsDecoded :
    let s := State.reset.setInputs [.busRead 0o17774456 false]
    let t := (State.reset.setInputs [.busWrite 0o17774456 0x0041 false]).setConcurrent [{ wait := 9, addr := 2, bytes := [7] }]
    s.fault = none ∧ coordinatorOk s = true ∧ fetchInput s (.busRead 0o17774456 false) = .record [0x17, 0x00]
      ∧ decode [0x17, 0x00] = .ok (.cRdCsr .i0)
      ∧ (∀ u ∈ needs (ackTarget s) (.cRdCsr .i0), (s.ctl u).hung = false)
      ∧ t.fault = none ∧ coordinatorOk t = true
      ∧ fetchInput t (.busWrite 0o17774456 0x0041 false) = .record [0x1F, 0x00, 0x41, 0x00]
      ∧ decode [0x1F, 0x00, 0x41, 0x00] = .ok (.cWrCsr .i0 0x0041)
      ∧ (∀ u ∈ needs (ackTarget t) (.cWrCsr .i0 0x0041), (t.ctl u).hung = false)
      ∧ isRegisterWrite (.cWrCsr .i0 0x0041) = true
      ∧ (landAll t).byteAt 2 = 7 ∧ (landAll t).concurrent = [] := by decide

theorem witness_StepElsewhere :
    (State.reset.setFault .invariant).fault = some .invariant
      ∧ coordinatorOk (State.reset.setCoord 1 true) = false
      ∧ State.reset.inputs = []
      ∧ needs (ackTarget State.reset) (.tick .i1) = [.i1] ∧ ((with1 (·.setHung true)).ctl .i1).hung = true
      ∧ decode [0x40] = .error .badCode := by decide

theorem witness_ClassicStationReads :
    Mode.legacy ≠ .turbo ∧ (0 : Fin 8).val < 6 ∧ ((with1 (·.setMode .legacy)).ctl .i1).mode = .legacy
      ∧ Mode.compatible ≠ .turbo ∧ (5 : Fin 8).val < 6 ∧ (State.reset.ctl .i1).mode = .compatible := by decide

theorem witness_ClassicRegisterReads :
    Mode.compatible ≠ .turbo ∧ (State.reset.ctl .i0).mode = .compatible ∧ State.reset.RegistersOk := by decide

theorem witness_TurboReads :
    ((turbo0 id).ctl .i0).mode = .turbo ∧ (5 : Fin 8).val < 6 ∧ (turbo0 id).cfg.layout.wellFormed = true
      ∧ (turbo0 id).ModesOk := by decide

theorem witness_IgnoredWrites :
    ((turbo0 id).ctl .i0).mode = .turbo ∧ (5 : Fin 8).val = 5 ∧ (State.reset.ctl .i1).mode = .compatible
      ∧ (1 : Fin 8).val = 1 := by decide

theorem witness_LatchWrites :
    (State.reset.ctl .i1).mode = .compatible ∧ Mode.compatible ≠ .turbo ∧ ((turbo0 id).ctl .i0).mode = .turbo := by decide

theorem witness_VarWrite : Mode.compatible ≠ .turbo ∧ (State.reset.ctl .i1).mode = .compatible := by decide

theorem witness_SelfTestDone : ((with1 (·.setVar 0xA000)).ctl .i1).classic.var.getLsbD 13 = true := by decide

/-- A queued item, as a frame of 60 bytes of 0 leaves it. -/
def item : Item := { kind := .normal, bytes := List.replicate 60 0, offset := 0 }

/-- Is the operation's result a value? -/
def succeeds (r : EStateM.Result Stop State Unit) : Bool :=
  match r with
  | .ok _ _ => true
  | .error _ _ => false

/-- SR 0 before, and SR 1 before and written; without a walk and with one. -/
theorem witness_CsrWrite :
    let t := with1 fun c => (c.setCsr 0x0012).setQueue { readq := [item], loss := 0 }
    Mode.compatible ≠ .turbo ∧ (State.reset.ctl .i1).mode = .compatible ∧ coordinatorOk State.reset = true
      ∧ (State.reset.ctl .i1).queue.readq = [] ∧ (State.reset.ctl .i1).classic.csr.getLsbD 1 = false
      ∧ (t.ctl .i1).mode = .compatible ∧ coordinatorOk t = true ∧ (3 : Word).getLsbD 1 = true
      ∧ (t.ctl .i1).classic.csr.getLsbD 0 = false ∧ (3 : Word).getLsbD 0 = true
      ∧ (t.ctl .i1).classic.csr.getLsbD 5 = false ∧ (t.ctl .i1).queue.readq ≠ [] := by decide

/-- Without a walk; with one that ends at an invalid descriptor; with one that ends the step with an NXM. -/
theorem witness_CsrResetWrite :
    let s := with1 (·.setCsr 0x0032)
    let f : Addr → State := fun p =>
      with1 fun c => ((c.setCsr 0x0012).setRptr p).setQueue { readq := [item], loss := 0 }
    Mode.compatible ≠ .turbo ∧ (s.ctl .i1).mode = .compatible ∧ coordinatorOk s = true
      ∧ (s.ctl .i1).classic.csr.getLsbD 1 = true ∧ (0xFFFD : Word).getLsbD 1 = false
      ∧ (s.ctl .i1).classic.csr.getLsbD 5 = true
      ∧ (∀ t ∈ [f 0, f 0x100000],
          (t.ctl .i1).mode = .compatible ∧ coordinatorOk t = true ∧ (t.ctl .i1).classic.csr.getLsbD 1 = true
            ∧ (1 : Word).getLsbD 1 = false ∧ (t.ctl .i1).classic.csr.getLsbD 0 = false ∧ (1 : Word).getLsbD 0 = true
            ∧ (t.ctl .i1).classic.csr.getLsbD 5 = false ∧ (t.ctl .i1).queue.readq ≠ [])
      ∧ succeeds (rxDispatch .i1 (csrEdges .i1 (csrSetMask 1) (csrClrMask 1) (f 0))) = true
      ∧ succeeds (rxDispatch .i1 (csrEdges .i1 (csrSetMask 1) (csrClrMask 1) (f 0x100000))) = false := by decide

theorem witness_FullReset : coordinatorOk ((with1 (·.setPending true)).setCoord 1 true) = true := by decide

theorem witness_BusResetAndPowerOn :
    coordinatorOk (((with1 (·.setPending true)).setCtl .i0 (State.reset.i0.setPending true)).setCoord 2 true) = true := by
  decide

theorem witness_TurboEntry :
    let s := with0 (·.setRbdlLo 0xA5A5)
    (s.unit .i0).type = .turbo ∧ (s.ctl .i0).mode = .compatible ∧ coordinatorOk s = true
      ∧ (s.ctl .i0).classic.rbdlLo = s.cfg.handshakeLo := by decide

/-- Both clauses: an invalid descriptor at 0 and a valid one, with nothing queued. -/
theorem witness_ReceiveListWrite :
    let s := State.reset
    let t := holding (cells 2 0x8000) s
    Mode.compatible ≠ .turbo ∧ (s.ctl .i1).mode = .compatible ∧ RequestOk (s.ctl .i1)
      ∧ ¬((s.unit .i1).type = .turbo ∧ (s.ctl .i1).classic.rbdlLo = s.cfg.handshakeLo)
      ∧ s.Quiet ∧ t.Quiet ∧ s.cfg.chainCap ≠ some 0
      ∧ descReady s.cfg (addrOf 0 (s.ctl .i1).classic.rbdlLo) = true ∧ descValid ((s.fetched 0).descAt 0) = false
      ∧ descReady t.cfg (addrOf 0 (t.ctl .i1).classic.rbdlLo) = true ∧ descValid ((t.fetched 0).descAt 0) = true
      ∧ descChain ((t.fetched 0).descAt 0) = false ∧ (t.ctl .i1).queue.readq = [] := by decide

theorem witness_OddListRefused :
    let s := with1 fun c => (c.setRbdlLo 0x1001).setXbdlLo 0x2001
    Mode.compatible ≠ .turbo ∧ (s.ctl .i1).mode = .compatible ∧ RequestOk (s.ctl .i1) ∧ s.cfg.chainCap ≠ some 0
      ∧ (s.ctl .i1).classic.rbdlLo.getLsbD 0 = true ∧ ¬((s.unit .i1).type = .turbo)
      ∧ (s.ctl .i1).classic.xbdlLo.getLsbD 0 = true ∧ (s.ctl .i1).tx.txpend = none := by decide

theorem witness_TransmitListWrite :
    let s := State.reset
    Mode.compatible ≠ .turbo ∧ (s.ctl .i1).mode = .compatible ∧ RequestOk (s.ctl .i1)
      ∧ s.Quiet ∧ s.cfg.chainCap ≠ some 0 ∧ (s.ctl .i1).tx.txpend = none
      ∧ descReady s.cfg (addrOf 0 (s.ctl .i1).classic.xbdlLo) = true
      ∧ descValid ((s.fetched 0).descAt (addrOf 0 (s.ctl .i1).classic.xbdlLo)) = false := by decide

/-- Instance 1 before a write of XBDL_HI that finds at 0 an end-of-message descriptor with flag bits `w1` and a buffer of
two bytes at 0x5000, which hold `lo` and `hi`; the list ends after it. -/
def sending (csr w1 : Word) (lo hi : Byte) (f : Ctl → Ctl) : State :=
  holding (cells 2 w1 ++ cells 4 0x5000 ++ cells 6 0xFFFF ++ [(0x5000, lo), (0x5001, hi)]) (with1 fun c => f (c.setCsr csr))

/-- Such a state meets the premises of all of the statement's clauses, and the message is the two bytes. -/
def sendReady (s : State) : Bool :=
  let w := (s.fetched 0).descAt 0
  decide ((s.ctl .i1).mode = .compatible) && decide (RequestOk (s.ctl .i1)) && coordinatorOk s && decide s.Quiet
    && decide (s.cfg.chainCap = none) && decide ((s.ctl .i1).tx = { txbuf := [], txpend := none, gen := 1 })
    && addrOf 0 (s.ctl .i1).classic.xbdlLo == 0 && descReady s.cfg 0 && descReady s.cfg 12
    && descValid w && !descChain w && descEom w && bytesBacked s.cfg (descStart w) (descLen w)
    && (s.fetched 0).bytesAt (descStart w) (descLen w) == [0xAA, 0xBB] && (s.ctl .i1).classic.csr.getLsbD 5

theorem witness_MessageEnd_handOff :
    let s := sending 0x0031 0xA000 0xAA 0xBB id
    sendReady s = true ∧ descSetup ((s.fetched 0).descAt 0) = false ∧ loopsBack (s.ctl .i1).classic.csr = false
      ∧ (s.unit .i1).attached = true := by decide

theorem witness_MessageEnd_setup :
    let s := sending 0x0031 0xB000 0xAA 0xBB id
    sendReady s = true ∧ descSetup ((s.fetched 0).descAt 0) = true := by decide

/-- Looped back, and accepted by the filter. -/
theorem witness_MessageEnd_accepted :
    let s := sending 0x0030 0xA000 0xAA 0xBB (·.setSetup { State.reset.i1.setup with promiscuous := true })
    sendReady s = true ∧ descSetup ((s.fetched 0).descAt 0) = false ∧ loopsBack (s.ctl .i1).classic.csr = true
      ∧ (s.ctl .i1).setup.promiscuous = true := by decide

/-- Looped back, and not accepted. -/
theorem witness_MessageEnd_dropped :
    let s := sending 0x0030 0xA000 0xAA 0xBB id
    sendReady s = true ∧ descSetup ((s.fetched 0).descAt 0) = false ∧ loopsBack (s.ctl .i1).classic.csr = true
      ∧ setupMatches (s.ctl .i1).setup [0xAA, 0xBB] = false := by decide

theorem witness_MessageEnd_unattached :
    let s := under { Config.test with unit1.attached := false } (sending 0x0031 0xA000 0xAA 0xBB id)
    sendReady s = true ∧ descSetup ((s.fetched 0).descAt 0) = false ∧ loopsBack (s.ctl .i1).classic.csr = false
      ∧ (s.unit .i1).attached = false := by decide

/-- The descriptor after the completed one still ends the list, after each of the two status words. -/
theorem witness_MessageEnd_ends :
    let s := sending 0x0031 0xB000 0xAA 0xBB id
    descValid (((s.wrotePair 0 s.cfg.txOkSw1 s.cfg.txOkSw2).fetched 12).descAt 12) = false
      ∧ descValid (((s.wrotePair 0 s.cfg.txFailSw1 0x3FFF).fetched 12).descAt 12) = false := by decide

theorem witness_FaultWhileSending :
    let p := some { addr := 0, gen := 1 }
    ((with1 (·.setTxpend p)).ctl .i1).tx.txpend.isSome = true ∧ ((with1 (·.setTxpend p)).ctl .i1).mode = .compatible
      ∧ Mode.compatible ≠ .turbo
      ∧ ((turbo0 (·.setTxpend p)).ctl .i0).tx.txpend.isSome = true ∧ ((turbo0 (·.setTxpend p)).ctl .i0).mode = .turbo
      ∧ (1 : Word).getLsbD State.reset.cfg.layout.srqStart = true := by decide

/-- Idle; another tag; another generation. -/
theorem witness_CompletionStale :
    (State.reset.ctl .i1).tx.txpend = none
      ∧ ((with1 (·.setTxpend (some { addr := 0, gen := 1 }))).ctl .i1).tx.txpend = some { addr := 0, gen := 1 }
      ∧ 2 ≠ 1
      ∧ ((with1 (·.setTxpend (some { addr := 0, gen := 0 }))).ctl .i1).tx.gen ≠ 0 := by decide

/-- Instance 1 with a message at the transport whose descriptor is at 0. -/
def awaiting (csr : Word) : State := with1 fun c => (c.setCsr csr).setTxpend (some { addr := 0, gen := 1 })

/-- Such a state meets the premises of both clauses. -/
def awaitingReady (s : State) : Bool :=
  decide ((s.ctl .i1).mode = .compatible) && coordinatorOk s && decide s.Quiet
    && decide ((s.ctl .i1).tx = { txbuf := [], txpend := some { addr := 0, gen := 1 }, gen := 1 })
    && (s.ctl .i1).classic.csr.getLsbD 5 && (s.ctl .i1).classic.xptr == 0
    && wordReady s.cfg 8 && wordReady s.cfg 10 && decide (s.cfg.chainCap = none) && descReady s.cfg 12

/-- XL set, and XL clear with an invalid descriptor next. -/
theorem witness_CompletionClassic :
    awaitingReady (awaiting 0x0071) = true ∧ ((awaiting 0x0071).ctl .i1).classic.csr.getLsbD 4 = true
      ∧ awaitingReady (awaiting 0x0061) = true ∧ ((awaiting 0x0061).ctl .i1).classic.csr.getLsbD 4 = false := by decide

theorem witness_CompletionClassic_ends :
    let s := awaiting 0x0061
    descValid (((s.wrotePair 0 0x0000 0x0000).fetched 12).descAt 12) = false
      ∧ descValid (((s.nextDraw.wrotePair 0 0x4000 0x3FFF).fetched 12).descAt 12) = false := by decide

theorem witness_FrameQueued :
    let s := with1 fun c => (c.setCsr 0x0031).setRxSubscribed true
    let t := started0 id
    (s.unit .i1).attached = true ∧ (s.ctl .i1).rxSubscribed = true ∧ (s.ctl .i1).mode ≠ .turbo
      ∧ (s.ctl .i1).classic.csr.getLsbD 5 = true
      ∧ t.Quiet ∧ (t.unit .i0).attached = true ∧ (t.ctl .i0).rxSubscribed = true ∧ (t.ctl .i0).mode = .turbo
      ∧ wordReady t.cfg (offsetAddr (slotAddr t.cfg.layout 0 0) t.cfg.layout.slotOwner) = true
      ∧ slotOwned t.cfg.layout (t.slotWord (slotAddr t.cfg.layout 0 0) t.cfg.layout.slotOwner) = false := by decide

/-- Instance 1 with a receive list at 0x1000: one descriptor with its buffer at 0x4000, of `w3` words, and the list's end. -/
def receiving (w3 csr : Word) (f : Ctl → Ctl) : State :=
  holding (cells 0x1002 0x8000 ++ cells 0x1004 0x4000 ++ cells 0x1006 w3) (with1 fun c => f (c.setCsr csr))

/-- The shortest frame, delivered as 60 bytes into a buffer of just 60. -/
theorem witness_ItemDelivered_frame :
    let s := receiving 0xFFE2 0x0051 fun c => (c.setRxSubscribed true).setRptr 0x1000
    (s.ctl .i1).mode ≠ .turbo ∧ coordinatorOk s = true ∧ s.Quiet ∧ s.cfg.chainCap = none
      ∧ (s.unit .i1).attached = true ∧ (s.ctl .i1).rxSubscribed = true ∧ (s.ctl .i1).classic.csr.getLsbD 5 = false
      ∧ (s.ctl .i1).queue.readq = [] ∧ 1 ≤ s.cfg.readqCap ∧ (s.ctl .i1).classic.rptr = 0x1000
      ∧ descLen ((s.fetched 0x1000).descAt 0x1000) = 60
      ∧ endsItem { kind := .normal, bytes := normalise [], offset := 0 } 60 = true := by decide

theorem witness_ItemDelivered_frame_takes :
    (receiving 0xFFE2 0x0051 fun c => (c.setRxSubscribed true).setRptr 0x1000).takes 0x1000
      { kind := .normal, bytes := normalise [], offset := 0 } false = true := by decide +kernel

/-- A setup response of 60 bytes, nothing delivered yet: two bytes of it go into a buffer of two, and the rest stays. -/
theorem witness_ItemDelivered_part :
    let q : Item := { kind := .setupResponse, bytes := List.replicate 60 1, offset := 0 }
    let s := receiving 0xFFFF 0x0070 fun c => (c.setRbdlLo 0x1000).setQueue { readq := [q], loss := 1 }
    (s.ctl .i1).mode ≠ .turbo ∧ coordinatorOk s = true ∧ s.Quiet ∧ s.cfg.chainCap = none
      ∧ (s.ctl .i1).mode = .compatible ∧ RequestOk (s.ctl .i1) ∧ (s.ctl .i1).queue.readq = [q]
      ∧ addrOf 0 (s.ctl .i1).classic.rbdlLo = 0x1000 ∧ ¬((s.unit .i1).type = .turbo)
      ∧ s.takes 0x1000 q true = true ∧ endsItem q (descLen ((s.fetched 0x1000).descAt 0x1000)) = false
      ∧ restOf q 2 = [{ q with offset := 2 }] := by decide

/-- Its last two bytes. -/
theorem witness_ItemDelivered_end :
    let q : Item := { kind := .setupResponse, bytes := List.replicate 60 1, offset := 58 }
    let s := receiving 0xFFFF 0x0070 fun c => (c.setRbdlLo 0x1000).setQueue { readq := [q], loss := 0 }
    s.takes 0x1000 q false = true ∧ endsItem q (descLen ((s.fetched 0x1000).descAt 0x1000)) = true := by decide

/-- Chains from 0x1000 to an invalid descriptor at 0x2000, for both walks; a chain descriptor that names itself, without a
bound and under the bounds 0 and 1. -/
theorem witness_ChainDescriptors :
    let f : Word → State := fun link =>
      holding (cells 0x1002 0xC000 ++ cells 0x1004 link) (with1 fun c => (c.setRbdlLo 0x1000).setXbdlLo 0x1000)
    (∀ s ∈ [f 0x2000, f 0x1000],
      (s.ctl .i1).mode = .compatible ∧ RequestOk (s.ctl .i1) ∧ s.Quiet ∧ ¬((s.unit .i1).type = .turbo)
        ∧ addrOf 0 (s.ctl .i1).classic.rbdlLo = 0x1000 ∧ addrOf 0 (s.ctl .i1).classic.xbdlLo = 0x1000
        ∧ (s.ctl .i1).tx.txpend = none ∧ descReady s.cfg 0x1000 = true ∧ s.cfg.chainCap = none
        ∧ descValid ((s.fetched 0x1000).descAt 0x1000) = true ∧ descChain ((s.fetched 0x1000).descAt 0x1000) = true)
      ∧ descAddr (((f 0x2000).fetched 0x1000).descAt 0x1000) = 0x2000 ∧ descReady (f 0x2000).cfg 0x2000 = true
      ∧ descValid ((((f 0x2000).fetched 0x1000).fetched 0x2000).descAt 0x2000) = false
      ∧ descAddr (((f 0x1000).fetched 0x1000).descAt 0x1000) = 0x1000 ∧ (f 0x1000).cfg.writeFlagWord = false
      ∧ (under { Config.test with chainCap := some 0 } (f 0x1000)).cfg.chainCap = some 0
      ∧ (under { Config.test with chainCap := some 1 } (f 0x1000)).cfg.chainCap = some 1 := by decide

/-- One segment of two bytes and an invalid descriptor after it. -/
theorem witness_TransmitWalk :
    let s := holding (cells 0x2002 0x8000 ++ cells 0x2004 0x5000 ++ cells 0x2006 0xFFFF) (with1 (·.setXbdlLo 0x2000))
    Mode.compatible ≠ .turbo ∧ (s.ctl .i1).mode = .compatible ∧ RequestOk (s.ctl .i1) ∧ s.Quiet
      ∧ s.cfg.chainCap = none ∧ (s.ctl .i1).tx.txpend = none ∧ Memory.wf s.mem = true ∧ 12 * (1 + 1) ≤ 2 ^ 22
      ∧ addrOf 0 (s.ctl .i1).classic.xbdlLo = 0x2000
      ∧ (∀ k ≤ 1, descReady s.cfg (0x2000 + BitVec.ofNat 22 (12 * k)) = true)
      ∧ (∀ k < 1, descValid (s.descAfter 0x2000 k) = true ∧ descChain (s.descAfter 0x2000 k) = false
          ∧ descEom (s.descAfter 0x2000 k) = false
          ∧ bytesBacked s.cfg (descStart (s.descAfter 0x2000 k)) (descLen (s.descAfter 0x2000 k)) = true)
      ∧ descValid (s.descAfter 0x2000 1) = false := by decide

theorem witness_IcrWrite : ((turbo0 id).ctl .i0).mode = .turbo ∧ coordinatorOk (turbo0 id) = true := by decide

theorem witness_StartCompletes :
    let s := turbo0 (·.setIba 0x10000)
    (s.ctl .i0).mode = .turbo ∧ coordinatorOk s = true ∧ s.Quiet ∧ (1 : Word).getLsbD s.cfg.layout.srqStart = true
      ∧ (s.ctl .i0).tx.txpend = none ∧ (s.ctl .i0).queue.readq = [] ∧ initReady s.cfg (s.ctl .i0).turbo.iba = true := by
  decide

theorem witness_StartIgnoredOrFails :
    let s := turbo0 (·.setIba 0x100000)
    let p := offsetAddr (s.ctl .i0).turbo.iba s.cfg.layout.ibFlags
    (s.ctl .i0).mode = .turbo ∧ (0xFFFE : Word).getLsbD s.cfg.layout.srqStart = false
      ∧ (1 : Word).getLsbD s.cfg.layout.srqStart = true ∧ (s.ctl .i0).tx.txpend = none ∧ coordinatorOk s = true ∧ s.Quiet
      ∧ p.getLsbD 0 = false ∧ wordBacked s.cfg p = false := by decide

/-- The four clauses: SR with every bit set; before START; rings with nothing to serve; one owned slot that ends a packet. -/
theorem witness_AsyncRequest :
    let s := turbo0 id
    let q := started0 id
    let t := holding (cells 4 0xC002 ++ cells 8 0x8000) (started0 id)
    let l := s.cfg.layout
    (s.ctl .i0).mode = .turbo ∧ (0xFFFF : Word).getLsbD l.arqSr = true
      ∧ (0xFFFD : Word).getLsbD l.arqSr = false ∧ (s.ctl .i0).turbo.ringsStarted = false
      ∧ q.Quiet ∧ t.Quiet ∧ (q.ctl .i0).mode = .turbo ∧ (q.ctl .i0).queue.readq = []
      ∧ wordReady q.cfg (offsetAddr (slotAddr l 0 0) l.slotOwner) = true
      ∧ slotOwned l (q.slotWord (slotAddr l 0 0) l.slotOwner) = false
      ∧ (t.ctl .i0).mode = .turbo ∧ (0x8000 : Word).getLsbD l.arqSr = false ∧ (0x8000 : Word).getLsbD l.arqRrq = false
      ∧ (0x8000 : Word).getLsbD l.arqTrq = true ∧ (t.ctl .i0).turbo.ringsStarted = true ∧ (t.ctl .i0).tx.txpend = none
      ∧ slotReady t.cfg (slotAddr l (t.ctl .i0).turbo.txRingBase (t.ctl .i0).turbo.txIdx) = true
      ∧ slotOwned l (t.slotWord (slotAddr l 0 0) l.slotOwner) = true
      ∧ (t.slotWord (slotAddr l 0 0) l.slotLenFlags).getLsbD l.enp = true
      ∧ t.slotBuffer (slotAddr l 0 0) = 0
      ∧ bytesBacked t.cfg 0 (slotLen l (t.slotWord (slotAddr l 0 0) l.slotLenFlags)) = true
      ∧ (t.unit .i0).attached = true := by decide

/-- One item of 60 bytes into a slot of just 60. -/
theorem witness_RingDelivered :
    let s := holding (cells 2 1 ++ cells 4 0x003C ++ cells 8 0x8000) (started0 (·.setQueue { readq := [item], loss := 0 }))
    let l := s.cfg.layout
    (s.ctl .i0).mode = .turbo ∧ coordinatorOk s = true ∧ s.Quiet ∧ (0x0080 : Word).getLsbD l.arqSr = false
      ∧ (0x0080 : Word).getLsbD l.arqTrq = false ∧ (0x0080 : Word).getLsbD l.arqRrq = true
      ∧ (s.ctl .i0).turbo.ringsStarted = true ∧ (s.ctl .i0).queue.readq = [item]
      ∧ (s.ctl .i0).turbo.rxRingBase = 0 ∧ ((s.ctl .i0).turbo.rxIdx + 1) % s.cfg.rxRingN = 1
      ∧ slotReady s.cfg (slotAddr l 0 0) = true ∧ wordReady s.cfg (offsetAddr (slotAddr l 0 1) l.slotOwner) = true
      ∧ slotOwned l (s.slotWord (slotAddr l 0 0) l.slotOwner) = true ∧ s.slotBuffer (slotAddr l 0 0) = 0x10000
      ∧ endsItem item (slotLen l (s.slotWord (slotAddr l 0 0) l.slotLenFlags)) = true
      ∧ bytesBacked s.cfg 0x10000 60 = true := by decide

/-- Two bytes of it into a slot of two, the slot after it not the device's. -/
theorem witness_RingDelivered_part :
    let s := holding (cells 2 1 ++ cells 4 0x0002 ++ cells 8 0x8000) (started0 (·.setQueue { readq := [item], loss := 0 }))
    let l := s.cfg.layout
    let owner := offsetAddr (slotAddr l 0 1) l.slotOwner
    let s1 := State.wroteBytes 0x10000 [0, 0] s
    let s3 := (s1.wroteWord (offsetAddr (slotAddr l 0 0) l.slotLenFlags) 0x8002).wroteWord
      (offsetAddr (slotAddr l 0 0) l.slotStatus) 0x0002
    let s4 := (s3.addTrace .barrier).wroteWord (offsetAddr (slotAddr l 0 0) l.slotOwner) 0x4000
    nextBytes item (slotLen l (s.slotWord (slotAddr l 0 0) l.slotLenFlags)) = [0, 0]
      ∧ endsItem item (slotLen l (s.slotWord (slotAddr l 0 0) l.slotLenFlags)) = false
      ∧ slotOwned l (s3.wordAt owner) = false ∧ slotOwned l (s4.wordAt owner) = false := by decide

theorem witness_CompletionTurbo :
    let s := started0 (·.setTxpend (some { addr := 0, gen := 2 }))
    let l := s.cfg.layout
    let owner := offsetAddr (slotAddr l 0 1) l.slotOwner
    let s1 := s.wroteWord (offsetAddr (slotAddr l 0 0) l.slotStatus) (bitWord l.err false)
    let s2 := (s1.addTrace .barrier).wroteWord (offsetAddr (slotAddr l 0 0) l.slotOwner) (bitWord l.eor true)
    (s.ctl .i0).mode = .turbo ∧ coordinatorOk s = true ∧ s.Quiet ∧ (s.ctl .i0).tx.txpend = some { addr := 0, gen := 2 }
      ∧ (s.ctl .i0).tx.gen = 2 ∧ (s.ctl .i0).turbo.ringsStarted = true
      ∧ (s.ctl .i0).turbo.txRingBase = 0 ∧ ((s.ctl .i0).turbo.txIdx + 1) % s.cfg.txRingN = 1
      ∧ wordReady s.cfg (offsetAddr (slotAddr l 0 0) l.slotStatus) = true
      ∧ wordReady s.cfg (offsetAddr (slotAddr l 0 0) l.slotOwner) = true ∧ wordReady s.cfg owner = true
      ∧ slotOwned l (s1.wordAt owner) = false ∧ slotOwned l (s2.wordAt owner) = false := by decide

theorem witness_Acknowledge :
    (with0 (·.setPending true)).i0.pending = true
      ∧ (with1 (·.setPending true)).i0.pending = false ∧ (with1 (·.setPending true)).i1.pending = true
      ∧ State.reset.i0.pending = false ∧ State.reset.i1.pending = false := by decide

/-- The four clauses, at counts 2 and 1. -/
theorem witness_TimerTick :
    let f : Nat → Ctl → Ctl := fun n c => c.setTimers { c.timers with sanCount := n, sanArmed := true }
    (State.reset.ctl .i1).timers.sanArmed = false
      ∧ ((with1 (f 2)).ctl .i1).timers.sanArmed = true ∧ 2 ≤ ((with1 (f 2)).ctl .i1).timers.sanCount
      ∧ ((with1 (f 1)).ctl .i1).timers.sanArmed = true ∧ ((with1 (f 1)).ctl .i1).timers.sanCount = 1
      ∧ ((with1 (f 1)).ctl .i1).mode ≠ .turbo
      ∧ ((turbo0 (f 1)).ctl .i0).timers.sanArmed = true ∧ ((turbo0 (f 1)).ctl .i0).timers.sanCount = 1
      ∧ ((turbo0 (f 1)).ctl .i0).mode = .turbo := by decide

theorem witness_ReservedCodes : (0x38 : BitVec 6) ≤ 0x38 ∧ (0x38 : BitVec 6) ≤ 0x3F := by decide

theorem witness_CoordinatorOperations :
    ((with1 (·.setPending true)).ctl .i1).pending = true ∧ (State.reset.ctl .i1).pending = false := by decide

theorem witness_InterruptRequests :
    coordinatorOk State.reset = true ∧ coordinatorOk ((with1 (·.setPending true)).setCoord 1 true) = true := by decide

theorem witness_MemoryErrors :
    coordinatorOk State.reset = true ∧ NxmCtx.chainCap ≠ .initBlock ∧ NxmCtx.chainCap ≠ .ring := by decide

theorem witness_SetupPacket : (State.reset.ctl .i1).mode ≠ .turbo := by decide

/-- The longest buffer, from an even address, and the empty one from an odd address. -/
theorem witness_DescriptorCodec :
    (131070 + 0 % 2 + (131070 + 0 % 2) % 2) / 2 ≤ 65535 ∧ (0 + 0x3FFFFF % 2 + (0 + 0x3FFFFF % 2) % 2) / 2 ≤ 65535 := by
  decide

/-- Words and bytes at the top of memory; a driver write that is due and one that is not. -/
theorem witness_MemoryAccesses :
    let due := State.reset.setConcurrent [{ wait := 0, addr := 0xFFFFE, bytes := [1, 2] }]
    let later := State.reset.setConcurrent [{ wait := 3, addr := 0xFFFFE, bytes := [1, 2] }]
    wordReady State.reset.cfg 0xFFFFE = true ∧ backed State.reset.cfg 0xFFFFF = true ∧ State.reset.Quiet
      ∧ Memory.wf State.reset.mem = true
      ∧ due.concurrent = [{ wait := 0, addr := 0xFFFFE, bytes := [1, 2] }] ∧ (observe due).wordAt 0xFFFFE = 0x0201
      ∧ (observe later).wordAt 0xFFFFE = 0
      ∧ (observe later).concurrent = [{ wait := 2, addr := 0xFFFFE, bytes := [1, 2] }]
      ∧ succeeds (writeWord .i0 .txStatus 0xFFFFE 0x1234 due) = true
      ∧ succeeds (writeBytes .i0 .rxData 0xFFFFF [0x12] State.reset) = true := by decide

/-- A driver write lands inside a receive walk, between the fetch's first words and its last: the descriptor is read with
its valid bit from before and its length from after it. -/
theorem test_driver_write_lands_inside_a_walk :
    let s := (receiving 0xFFFF 0x0051 fun c => (c.setRxSubscribed true).setRptr 0x1000).setConcurrent
      [{ wait := 3, addr := 0x1002, bytes := [0, 0, 0, 0, 0, 0] }]
    nextHas (.next (endState (fetchDesc .i1 0x1000) s)) (fun t => !descValid (t.descAt 0x1000)) = true
      ∧ (match fetchDesc .i1 0x1000 s with
          | .ok d _ => descValid d && d.w3 == 0
          | .error _ _ => false) = true := by decide

/-- The same bytes of memory at two addresses, by a bus map of two regions. -/
theorem test_bus_map :
    let s := under { Config.test with
      gmem := [{ base := 0, size := 0x100, target := 0 }, { base := 0x8000, size := 0x100, target := 0x80 }] } State.reset
    (s.putByte 0x8000 7).byteAt 0x80 = 7 ∧ (s.putByte 0x8000 7).mem = [(0x80, 7)] ∧ backed s.cfg 0x100 = false := by decide

/-- Each ring base's high part is where the layout says it is. -/
theorem test_ring_base_positions :
    let s := holding (cells 30 0x0003 ++ cells 34 0x0200) (under (withLayout ({ · with txRingHiLo := 8 })) State.reset)
    (s.initAt 0).rxRing = 0x30000 ∧ (s.initAt 0).txRing = 0x20000 := by decide

/-- The high part of a slot's address is where the layout says it is. -/
theorem test_slot_address :
    let s := holding (cells 2 0x0300) (under (withLayout ({ · with slotAddrHiLo := 8 })) State.reset)
    s.slotBuffer 0 = 0x30000 := by decide

/-- A state from which a step runs a tick of instance 1. -/
def ticking : State := State.reset.setInputs [.operation [0x31, 0x01]]

/-- Its step goes on, with the system-ID countdown one tick on. -/
theorem ticking_steps : nextHas (step ticking) (fun t => t.i1.timers.sysidCount == 7) = true := by decide

theorem witness_StepKeepsCoordinator :
    coordinatorOk ticking = true ∧ nextHas (step ticking) (fun _ => true) = true := by decide

theorem witness_StepKeepsMemory :
    ticking.MemoryOk ∧ nextHas (step ticking) (fun _ => true) = true := by decide

theorem witness_StepKeepsModes :
    ticking.ModesOk ∧ nextHas (step ticking) (fun _ => true) = true := by decide

theorem witness_StepKeepsRegisters :
    ticking.RegistersOk ∧ nextHas (step ticking) (fun _ => true) = true := by decide

theorem witness_StepKeepsSubscriptions :
    ticking.SubscriptionsOk ∧ nextHas (step ticking) (fun _ => true) = true := by decide

theorem witness_StepKeepsRequests :
    ticking.RequestsOk ∧ nextHas (step ticking) (fun _ => true) = true := by decide

theorem witness_StepKeepsTransmits :
    ticking.TransmitsOk ∧ nextHas (step ticking) (fun _ => true) = true := by decide

theorem witness_StepKeepsQueues :
    1 ≤ ticking.cfg.readqCap ∧ ticking.QueuesOk ∧ nextHas (step ticking) (fun _ => true) = true := by decide

theorem witness_StepKeepsCounters :
    ticking.cfg.wellFormed = true ∧ ticking.TimersOk ∧ ticking.RingsOk ∧ nextHas (step ticking) (fun _ => true) = true := by decide

theorem witness_ResetLegal : Config.test.wellFormed = true := by decide

theorem witness_ConfigurationAndMarks :
    let s := ((with1 (·.setHung true)).addRefusal .byteAccess).setFault .invariant
    s.fault ≠ none ∧ s.refused = true ∧ (s.ctl .i1).hung = true ∧ nextHas (exec (.tick .i0) s) (fun _ => true) = true := by
  decide

theorem witness_OtherInstanceKept :
    Inst.i1 ∉ needs (ackTarget State.reset) (.tick .i0) ∧ Inst.i1 ∉ needs (ackTarget State.reset) .ack
      ∧ nextHas (exec (.tick .i0) State.reset) (fun _ => true) = true := by decide

theorem witness_TurboLeftOnlyByReset :
    (turbo0 id).ModesOk ∧ ((turbo0 id).ctl .i0).mode = .turbo
      ∧ nextHas (exec (.tWrArqr .i0 2) (turbo0 id)) (fun t => decide ((t.ctl .i0).mode ≠ .turbo)) = true := by decide

theorem witness_ListBitsClearedOnlyByBase :
    let s := holding (cells 2 0x8000) State.reset
    (s.ctl .i1).classic.csr.getLsbD 5 = true
      ∧ nextHas (exec (.cWrRbdlHi .i1 0) s) (fun t => !(t.ctl .i1).classic.csr.getLsbD 5) = true
      ∧ (s.ctl .i1).classic.csr.getLsbD 4 = true
      ∧ nextHas (exec (.cWrXbdlHi .i1 0) (holding (cells 2 0xA000) (with1 (·.setCsr 0x0031))))
          (fun t => !(t.ctl .i1).classic.csr.getLsbD 4) = true := by decide

end Sys2Proof.Tests
end

section
/-! What an operation leaves alone: a property of the state that no change outside the instances breaks, and no change of an
instance the operation needs, is kept by the whole operation (rules R6, R214). -/

namespace Sys2Proof.Machine

/-! ### Pieces that keep a property -/

/-- A piece of a step keeps `P`, whether it goes on or ends the step. -/
def Keeps {α : Type} (P : State → Prop) (m : Op α) : Prop := Piece P m (fun _ => P) P

/-- No change of the state outside the two instances breaks `P`. -/
structure KeptOutside (P : State → Prop) : Prop where
  setCoord : ∀ s n l, P s → P (s.setCoord n l)
  setFault : ∀ s r, P s → P (s.setFault r)
  addRefusal : ∀ s r, P s → P (s.addRefusal r)
  nextDraw : ∀ s, P s → P s.nextDraw
  setYield : ∀ s v, P s → P (s.setYield v)
  putByte : ∀ s a b, P s → P (s.putByte a b)
  setConcurrent : ∀ s v, P s → P (s.setConcurrent v)
  addTrace : ∀ s e, P s → P (s.addTrace e)
  addEvent : ∀ s e, P s → P (s.addEvent e)

/-- No change outside the instances, and no change of instance `i`, breaks `P`. -/
structure KeptAround (i : Inst) (P : State → Prop) : Prop extends KeptOutside P where
  onCtl : ∀ f s, P s → P (onCtl i f s)

variable {P : State → Prop} {α β : Type} {i : Inst}

theorem Keeps.pure {a : α} : Keeps P (pure a : Op α) := Piece.pure fun _ h => h

theorem Keeps.bind {m : Op α} {f : α → Op β} (hm : Keeps P m) (hf : ∀ a, Keeps P (f a)) : Keeps P (m >>= f) :=
  Piece.bind hm hf

theorem Keeps.ask {f : State → α} : Keeps P (ask f) := fun _ h => h

theorem Keeps.change {f : State → State} (h : ∀ s, P s → P (f s)) : Keeps P (change f) := Piece.change h

theorem Keeps.ite {c : Prop} [Decidable c] {m n : Op α} (hm : Keeps P m) (hn : Keeps P n) :
    Keeps P (if c then m else n) := Piece.branch (fun _ => hm) fun _ => hn

/-- The `do` block `if c then m` followed by `f`. -/
theorem Keeps.when {c : Prop} [Decidable c] {m : Op Unit} {f : Unit → Op α} (hm : Keeps P m)
    (hf : ∀ a, Keeps P (f a)) : Keeps P (if c then m >>= f else f ()) := Keeps.ite (hm.bind hf) (hf ())

theorem Keeps.stopWith {r : Stop} : Keeps P (stopWith r : Op α) := fun _ h => h

theorem Keeps.endState {m : Op α} (h : Keeps P m) {s : State} (hs : P s) : P (endState m s) :=
  Piece.endState h (fun _ _ h => h) hs

/-- A pass that keeps `P` keeps it as the loop property of a walk. -/
theorem Keeps.passPost {m : Op (Pass α)} (h : Keeps P m) : Piece P m (PassPost (fun _ => P) fun _ => P) P :=
  h.weaken (fun _ h => h) (fun r _ h => by cases r <;> exact h) fun _ h => h

/-! ### Changes of the state -/

namespace KeptOutside

theorem putWord (hP : KeptOutside P) (s : State) (a : Addr) (v : Word) (h : P s) : P (s.putWord a v) :=
  hP.putByte _ _ _ (hP.putByte _ _ _ h)

theorem observe (hP : KeptOutside P) (s : State) (h : P s) : P (observe s) :=
  landDue_keeps hP.putByte hP.setConcurrent h

theorem barrier (hP : KeptOutside P) : Keeps P barrier := Keeps.change fun s => hP.addTrace s _

theorem emit (hP : KeptOutside P) {e : OutEvent} : Keeps P (emit e) := Keeps.change fun s => hP.addEvent s _

theorem draw (hP : KeptOutside P) {f : Nat → α} : Keeps P (draw f) := fun s => hP.nextDraw s

theorem yieldData (hP : KeptOutside P) {v : Word} : Keeps P (yieldData v) := Keeps.change fun s => hP.setYield s _

theorem refuse (hP : KeptOutside P) {r : RefuseReason} : Keeps P (refuse r : Op α) := fun s => hP.addRefusal s r

theorem faultStop (hP : KeptOutside P) {r : FaultReason} : Keeps P (faultStop r : Op α) := fun s => hP.setFault s r

/-! #### Register reads: none changes an instance -/

theorem yieldStation (hP : KeptOutside P) {b : Byte} : Keeps P (yieldStation b) := hP.draw.bind fun _ => hP.yieldData

theorem readStationOrCheck (hP : KeptOutside P) {k : Nat} : Keeps P (readStationOrCheck i k) :=
  Keeps.ask.bind fun _ => Keeps.ask.bind fun _ => hP.yieldStation

theorem readStation (hP : KeptOutside P) {k : Nat} : Keeps P (readStation i k) :=
  Keeps.ask.bind fun _ => hP.yieldStation

theorem readVar (hP : KeptOutside P) : Keeps P (readVar i) := Keeps.ask.bind fun _ => hP.yieldData

theorem readCsr (hP : KeptOutside P) : Keeps P (readCsr i) :=
  Keeps.ask.bind fun _ => Keeps.ask.bind fun _ => hP.draw.bind fun _ => hP.yieldData

theorem readSrr (hP : KeptOutside P) : Keeps P (readSrr i) :=
  Keeps.ask.bind fun _ => Keeps.ask.bind fun _ => hP.yieldData

theorem readReserved (hP : KeptOutside P) : Keeps P readReserved := hP.draw.bind fun _ => hP.yieldData

end KeptOutside

theorem Keeps.writeIgnored : Keeps P writeIgnored := Keeps.pure

namespace KeptAround

theorem changeCtl (hP : KeptAround i P) {f : Ctl → Ctl} : Keeps P (changeCtl i f) := Keeps.change (hP.onCtl f)

/-! #### Interrupt requests, errors and the full reset -/

theorem setInt (hP : KeptAround i P) (s : State) (h : P s) : P (setInt i s) := by
  rcases setInt_spec i s with ⟨_, e⟩ | ⟨_, e⟩ <;> rw [e]
  · exact h
  · exact hP.setCoord _ _ _ (hP.onCtl _ _ h)

theorem clrInt (hP : KeptAround i P) (s : State) (h : P s) : P (clrInt i s) := by
  rcases clrInt_spec i s with ⟨_, e⟩ | ⟨_, e⟩ <;> rw [e]
  · exact h
  · exact hP.setCoord _ _ _ (hP.onCtl _ _ h)

theorem intClassic (hP : KeptAround i P) (old new : Word) (s : State) (h : P s) : P (intClassic i old new s) := by
  rcases intClassic_cases i old new s with ⟨_, e⟩ | ⟨_, _, e⟩ | ⟨_, _, e⟩ <;> rw [e]
  · exact hP.setInt s h
  · exact hP.clrInt s h
  · exact h

theorem intTurbo (hP : KeptAround i P) (s : State) (h : P s) : P (intTurbo i s) := by
  rcases intTurbo_cases i s with ⟨_, e⟩ | ⟨_, e⟩ <;> rw [e]
  · exact hP.setInt s h
  · exact hP.clrInt s h

theorem latchTurbo (hP : KeptAround i P) (s : State) (h : P s) : P (latchTurbo i s) := hP.intTurbo _ (hP.onCtl _ _ h)

theorem csrChange (hP : KeptAround i P) (set clr : Word) (s : State) (h : P s) : P (csrChange i set clr s) :=
  hP.intClassic _ _ _ (hP.onCtl _ _ h)

theorem csrDevice (hP : KeptAround i P) {set clr : Word} : Keeps P (csrDevice i set clr) :=
  Keeps.change (hP.csrChange set clr)

theorem nxmState (hP : KeptAround i P) (ctx : NxmCtx) (s : State) (h : P s) : P (nxmState i ctx s) := by
  have classic : P (nxmClassic i s) := hP.csrChange _ _ _ (hP.onCtl _ _ h)
  have turbo : ∀ t, P t → P (nxmTurbo i t) := fun t ht => hP.latchTurbo _ (hP.onCtl _ _ ht)
  cases ctx with
  | initBlock => exact turbo _ (hP.onCtl _ _ h)
  | ring => exact turbo _ h
  | fetch | rxData | rxStatus | txData | txStatus | chainCap => exact classic

theorem raise (hP : KeptAround i P) {ctx : NxmCtx} : Keeps P (raise i ctx : Op α) := fun s => hP.nxmState ctx s

theorem hang (hP : KeptAround i P) : Keeps P (hang i : Op α) := fun s => hP.onCtl _ s

theorem resetFull (hP : KeptAround i P) : Keeps P (resetFull i) :=
  Keeps.change fun _ h => hP.addEvent _ _ (hP.clrInt _ (hP.onCtl _ _ h))

/-! #### Guest-memory accesses -/

theorem readByte (hP : KeptAround i P) {ctx : NxmCtx} {a : Addr} : Keeps P (readByte i ctx a) := by
  intro s hs
  rcases readByte_cases i ctx a s with ⟨_, e⟩ | ⟨_, e⟩ <;> rw [e]
  · exact hP.observe s hs
  · exact hP.nxmState _ _ (hP.observe s hs)

theorem readWord (hP : KeptAround i P) {ctx : NxmCtx} {a : Addr} : Keeps P (readWord i ctx a) := by
  intro s hs
  rcases readWord_cases i ctx a s with ⟨_, e⟩ | ⟨_, e⟩ | ⟨_, _, e⟩ <;> rw [e]
  · exact hP.addRefusal _ _ hs
  · exact hP.observe s hs
  · exact hP.nxmState _ _ (hP.observe s hs)

theorem writeByte (hP : KeptAround i P) {ctx : NxmCtx} {a : Addr} {b : Byte} : Keeps P (writeByte i ctx a b) := by
  intro s hs
  rcases writeByte_cases i ctx a b s with ⟨_, e⟩ | ⟨_, e⟩ <;> rw [e]
  · exact hP.addTrace _ _ (hP.putByte _ _ _ (hP.observe s hs))
  · exact hP.nxmState _ _ (hP.observe s hs)

theorem writeWord (hP : KeptAround i P) {ctx : NxmCtx} {a : Addr} {v : Word} : Keeps P (writeWord i ctx a v) := by
  intro s hs
  rcases writeWord_cases i ctx a v s with ⟨_, e⟩ | ⟨_, e⟩ | ⟨_, _, e⟩ <;> rw [e]
  · exact hP.addRefusal _ _ hs
  · exact hP.addTrace _ _ (hP.putWord _ _ _ (hP.observe s hs))
  · exact hP.nxmState _ _ (hP.observe s hs)

theorem readBytes (hP : KeptAround i P) {ctx : NxmCtx} (n : Nat) (a : Addr) : Keeps P (readBytes i ctx n a) := by
  induction n generalizing a with
  | zero => exact Keeps.pure
  | succ n ih => exact hP.readByte.bind fun _ => (ih _).bind fun _ => Keeps.pure

theorem writeBytes (hP : KeptAround i P) {ctx : NxmCtx} (a : Addr) (bs : List Byte) :
    Keeps P (writeBytes i ctx a bs) := by
  induction bs generalizing a with
  | nil => exact Keeps.pure
  | cons b rest ih => exact hP.writeByte.bind fun _ => ih _

theorem statusPair (hP : KeptAround i P) {ctx : NxmCtx} {p : Addr} {sw1 sw2 : Word} :
    Keeps P (statusPair i ctx p sw1 sw2) :=
  hP.writeWord.bind fun _ => hP.barrier.bind fun _ => hP.writeWord

/-! #### Walks -/

theorem freeWalk (hP : KeptAround i P) {pass : α → Op (Pass α)} (h : ∀ a, Keeps P (pass a)) (a : α) :
    Keeps P (freeWalk i pass a) :=
  freeWalk_piece (I := fun _ => P) (Q := fun _ => P) (fun a => (h a).passPost) (fun _ => hP.onCtl _) a

theorem classicWalk (hP : KeptAround i P) {pass : Unit → Op (Pass Unit)} (h : Keeps P (pass ())) :
    Keeps P (classicWalk i pass) :=
  classicWalk_piece h.passPost (hP.onCtl _) (hP.nxmState _)

/-! #### The Read Queue, the timers and the setup processor -/

theorem rqInsert (hP : KeptAround i P) {kind : ItemKind} {f : List Byte} : Keeps P (rqInsert i kind f) :=
  Keeps.ask.bind fun _ => hP.changeCtl

theorem sanityReload (hP : KeptAround i P) : Keeps P (sanityReload i) := hP.changeCtl

theorem sanityExpire (hP : KeptAround i P) : Keeps P (sanityExpire i) :=
  Keeps.ask.bind fun _ => Keeps.ite hP.resetFull hP.emit

theorem sanityTick (hP : KeptAround i P) : Keeps P (sanityTick i) :=
  Keeps.ask.bind fun _ => Keeps.ite (hP.changeCtl.bind fun _ => Keeps.ite hP.sanityExpire Keeps.pure) Keeps.pure

theorem sysidTick (hP : KeptAround i P) : Keeps P (sysidTick i) :=
  Keeps.ask.bind fun _ => Keeps.ask.bind fun _ => hP.changeCtl.bind fun _ =>
    Keeps.ite (hP.emit.bind fun _ => hP.changeCtl) Keeps.pure

theorem setupProcess (hP : KeptAround i P) {f : List Byte} : Keeps P (setupProcess i f) :=
  Keeps.ask.bind fun _ => hP.changeCtl.bind fun _ => Keeps.ask.bind fun _ => hP.emit.bind fun _ => hP.sanityReload

theorem readRingBase (hP : KeptAround i P) {pos : Nat} {lo hi : Addr} : Keeps P (readRingBase i pos lo hi) :=
  hP.readWord.bind fun _ => hP.readWord.bind fun _ => Keeps.pure

theorem readInitBlock (hP : KeptAround i P) {l : TurboLayout} {p : Addr} : Keeps P (readInitBlock i l p) :=
  hP.readWord.bind fun _ => (hP.readBytes _ _).bind fun _ => (hP.readBytes _ _).bind fun _ =>
    hP.readWord.bind fun _ => hP.readWord.bind fun _ => hP.readWord.bind fun _ => (hP.readBytes _ _).bind fun _ =>
      hP.readRingBase.bind fun _ => hP.readRingBase.bind fun _ => Keeps.pure

theorem initBlockLoad (hP : KeptAround i P) : Keeps P (initBlockLoad i) :=
  Keeps.ask.bind fun _ => Keeps.ask.bind fun _ => hP.readInitBlock.bind fun _ => hP.changeCtl.bind fun _ => hP.emit

/-! #### The classic lists -/

theorem fetchDesc (hP : KeptAround i P) {p : Addr} : Keeps P (fetchDesc i p) :=
  Keeps.ask.bind fun _ => Keeps.when hP.writeWord fun _ =>
    hP.readWord.bind fun _ => hP.readWord.bind fun _ => hP.readWord.bind fun _ => hP.readWord.bind fun _ =>
      hP.readWord.bind fun _ => hP.readWord.bind fun _ => Keeps.pure

theorem rxDeliver (hP : KeptAround i P) {p : Addr} {d : Desc} {q : Item} {loss : Nat} :
    Keeps P (rxDeliver i p d q loss) :=
  (hP.writeBytes _ _).bind fun _ => hP.statusPair.bind fun _ => hP.changeCtl.bind fun _ => hP.csrDevice.bind fun _ =>
    hP.changeCtl

theorem rxPass (hP : KeptAround i P) (a : Unit) : Keeps P (rxPass i a) := by
  refine Keeps.ask.bind fun c => hP.fetchDesc.bind fun d => Keeps.ite (hP.csrDevice.bind fun _ => Keeps.pure) <|
    Keeps.ite (hP.changeCtl.bind fun _ => Keeps.pure) ?_
  cases c.queue.readq with
  | nil => exact Keeps.pure
  | cons q rest => exact hP.rxDeliver.bind fun _ => Keeps.pure

theorem rxDispatch (hP : KeptAround i P) : Keeps P (rxDispatch i) :=
  Keeps.ask.bind fun _ => Keeps.ite Keeps.pure (hP.classicWalk (hP.rxPass ()))

theorem txStatus (hP : KeptOutside P) {status : TxStatus} : Keeps P (txStatus status) := by
  refine Keeps.ask.bind fun cfg => ?_
  cases status with
  | ok => exact Keeps.pure
  | fail => exact hP.draw.bind fun _ => Keeps.pure

theorem txComplete (hP : KeptAround i P) {status : TxStatus} : Keeps P (txComplete i status) :=
  Keeps.ask.bind fun _ => (txStatus hP.toKeptOutside).bind fun _ => hP.statusPair.bind fun _ => hP.changeCtl.bind fun _ =>
    hP.csrDevice.bind fun _ => hP.changeCtl.bind fun _ => hP.rxDispatch

theorem handOff (hP : KeptAround i P) {p : Addr} {f : List Byte} : Keeps P (handOff i p f) :=
  Keeps.ask.bind fun _ => hP.emit.bind fun _ => hP.changeCtl

theorem txEom (hP : KeptAround i P) {d : Desc} : Keeps P (txEom i d) :=
  Keeps.ask.bind fun _ => Keeps.ask.bind fun _ => hP.changeCtl.bind fun _ =>
    Keeps.ite (hP.setupProcess.bind fun _ => hP.rqInsert.bind fun _ => hP.txComplete) <|
    Keeps.ite (Keeps.when hP.rqInsert fun _ => hP.txComplete) <|
    Keeps.ite hP.txComplete (hP.handOff.bind fun _ => Keeps.stopWith)

theorem txSegmentDone (hP : KeptAround i P) {p : Addr} : Keeps P (txSegmentDone i p) :=
  hP.statusPair.bind fun _ => hP.changeCtl

theorem txGather (hP : KeptAround i P) {ctx : NxmCtx} {n : Nat} {a : Addr} : Keeps P (txGather i ctx n a) :=
  Keeps.ask.bind fun _ => (hP.readBytes _ _).bind fun _ => hP.changeCtl

theorem txPass (hP : KeptAround i P) (a : Unit) : Keeps P (txPass i a) :=
  Keeps.ask.bind fun _ => hP.fetchDesc.bind fun _ => Keeps.ite (hP.csrDevice.bind fun _ => Keeps.pure) <|
    Keeps.ite (hP.changeCtl.bind fun _ => Keeps.pure) <| hP.txGather.bind fun _ =>
      Keeps.ite (hP.txEom.bind fun _ => Keeps.pure) (hP.txSegmentDone.bind fun _ => Keeps.pure)

theorem txDispatch (hP : KeptAround i P) : Keeps P (txDispatch i) :=
  Keeps.ask.bind fun _ => Keeps.ite Keeps.pure (hP.classicWalk (hP.txPass ()))

/-! #### The turbo rings -/

theorem turboEnter (hP : KeptAround i P) : Keeps P (turboEnter i) :=
  Keeps.change fun _ h => hP.clrInt _ (hP.onCtl _ _ h)

theorem slotDone (hP : KeptAround i P) {base : Addr} {n idx : Nat} {w : Word} : Keeps P (slotDone i base n idx w) :=
  Keeps.ask.bind fun _ => hP.writeWord.bind fun _ => hP.readWord.bind fun _ => hP.barrier.bind fun _ => hP.writeWord

theorem batchDone (hP : KeptAround i P) {n : Nat} : Keeps P (batchDone i n) :=
  Keeps.ite (Keeps.change hP.latchTurbo) Keeps.pure

theorem ringRxFill (hP : KeptAround i P) {p : Addr} {c : Ctl} {q : Item} : Keeps P (ringRxFill i p c q) :=
  Keeps.ask.bind fun _ => hP.readWord.bind fun _ => hP.readWord.bind fun _ => hP.readWord.bind fun _ =>
    (hP.writeBytes _ _).bind fun _ => hP.writeWord.bind fun _ => hP.slotDone.bind fun _ => hP.changeCtl.bind fun _ =>
      hP.changeCtl

theorem ringRxPass (hP : KeptAround i P) (n : Nat) : Keeps P (ringRxPass i n) := by
  refine Keeps.ask.bind fun c => Keeps.ask.bind fun cfg => ?_
  cases c.queue.readq with
  | nil => exact Keeps.pure
  | cons q rest =>
    exact hP.readWord.bind fun _ => Keeps.ite Keeps.pure (hP.ringRxFill.bind fun _ => Keeps.pure)

theorem ringRx (hP : KeptAround i P) : Keeps P (ringRx i) :=
  Keeps.ask.bind fun _ => Keeps.ite ((hP.freeWalk hP.ringRxPass 0).bind fun _ => hP.batchDone) Keeps.pure

theorem ringTxDone (hP : KeptAround i P) {failed : Bool} : Keeps P (ringTxDone i failed) :=
  Keeps.ask.bind fun _ => Keeps.ask.bind fun _ => hP.slotDone.bind fun _ => hP.changeCtl

theorem ringTxPacket (hP : KeptAround i P) {p : Addr} {n : Nat} : Keeps P (ringTxPacket i p n) :=
  Keeps.ask.bind fun _ => Keeps.ask.bind fun _ => hP.changeCtl.bind fun _ =>
    Keeps.ite (hP.ringTxDone.bind fun _ => hP.changeCtl)
      (hP.handOff.bind fun _ => hP.batchDone.bind fun _ => Keeps.stopWith)

theorem ringTxPass (hP : KeptAround i P) (n : Nat) : Keeps P (ringTxPass i n) :=
  Keeps.ask.bind fun _ => Keeps.ask.bind fun _ => hP.readWord.bind fun _ => Keeps.ite Keeps.pure <|
    hP.readWord.bind fun _ => hP.readWord.bind fun _ => hP.readWord.bind fun _ => Keeps.when hP.changeCtl fun _ =>
      hP.txGather.bind fun _ =>
        Keeps.ite (hP.ringTxPacket.bind fun _ => Keeps.pure) (hP.ringTxDone.bind fun _ => Keeps.pure)

theorem ringTx (hP : KeptAround i P) {n : Nat} : Keeps P (ringTx i n) :=
  Keeps.ask.bind fun _ => Keeps.ite ((hP.freeWalk hP.ringTxPass n).bind fun _ => hP.batchDone) Keeps.pure

theorem turboStart (hP : KeptAround i P) : Keeps P (turboStart i) :=
  Keeps.ask.bind fun _ => Keeps.when hP.faultStop fun _ => hP.initBlockLoad.bind fun _ => hP.changeCtl.bind fun _ =>
    (Keeps.change hP.latchTurbo).bind fun _ => hP.ringRx

theorem turboTxComplete (hP : KeptAround i P) {status : TxStatus} : Keeps P (turboTxComplete i status) :=
  Keeps.ask.bind fun _ => Keeps.ask.bind fun _ => hP.slotDone.bind fun _ => hP.changeCtl.bind fun _ =>
    hP.changeCtl.bind fun _ => hP.changeCtl.bind fun _ => hP.ringTx

/-! #### Register writes -/

theorem csrEdges (hP : KeptAround i P) (set clr : Word) (s : State) (h : P s) : P (csrEdges i set clr s) := by
  unfold Machine.csrEdges
  exact hP.onCtl _ _ (hP.csrChange _ _ _ h)

theorem csrSetClr (hP : KeptAround i P) {set clr : Word} : Keeps P (csrSetClr i set clr) :=
  Keeps.ask.bind fun _ => (Keeps.change (hP.csrEdges set clr)).bind fun _ =>
    Keeps.when hP.rxDispatch fun _ => Keeps.ite hP.resetFull Keeps.pure

theorem writeRbdlHi (hP : KeptAround i P) {d : Word} : Keeps P (writeRbdlHi i d) :=
  Keeps.ask.bind fun _ => Keeps.ask.bind fun _ => Keeps.ite hP.turboEnter
    (hP.changeCtl.bind fun _ => hP.csrDevice.bind fun _ => hP.rxDispatch)

theorem writeXbdlHi (hP : KeptAround i P) {d : Word} : Keeps P (writeXbdlHi i d) :=
  Keeps.ask.bind fun _ => Keeps.when hP.faultStop fun _ =>
    hP.changeCtl.bind fun _ => hP.csrDevice.bind fun _ => hP.txDispatch

theorem writeRbdlLo (hP : KeptAround i P) {d : Word} : Keeps P (writeRbdlLo i d) := hP.changeCtl

theorem writeXbdlLo (hP : KeptAround i P) {d : Word} : Keeps P (writeXbdlLo i d) := hP.changeCtl

theorem writeVar (hP : KeptAround i P) {d : Word} : Keeps P (writeVar i d) := Keeps.ask.bind fun _ => hP.changeCtl

theorem writeCsr (hP : KeptAround i P) {d : Word} : Keeps P (writeCsr i d) := hP.csrSetClr

theorem writeIbaLo (hP : KeptAround i P) {d : Word} : Keeps P (writeIbaLo i d) := hP.changeCtl

theorem writeIbaHi (hP : KeptAround i P) {d : Word} : Keeps P (writeIbaHi i d) := hP.changeCtl

theorem writeIcr (hP : KeptAround i P) {d : Word} : Keeps P (writeIcr i d) :=
  Keeps.ask.bind fun _ => hP.changeCtl.bind fun _ => Keeps.change hP.intTurbo

theorem writeSrqr (hP : KeptAround i P) {d : Word} : Keeps P (writeSrqr i d) :=
  Keeps.ask.bind fun _ => Keeps.ite (hP.turboStart.bind fun _ => hP.sanityReload) Keeps.pure

theorem writeArqr (hP : KeptAround i P) {d : Word} : Keeps P (writeArqr i d) :=
  Keeps.ask.bind fun _ => Keeps.ite hP.resetFull <| Keeps.when hP.ringRx fun _ => Keeps.ite hP.ringTx Keeps.pure

/-! #### Events -/

theorem tick (hP : KeptAround i P) : Keeps P (tick i) := hP.sanityTick.bind fun _ => hP.sysidTick

theorem receive (hP : KeptAround i P) {f : List Byte} : Keeps P (receive i f) :=
  hP.rqInsert.bind fun _ => Keeps.ask.bind fun _ => Keeps.ite hP.ringRx hP.rxDispatch

theorem completed (hP : KeptAround i P) {status : TxStatus} : Keeps P (completed i status) :=
  hP.changeCtl.bind fun _ => Keeps.ask.bind fun _ =>
    Keeps.ite hP.turboTxComplete (hP.txComplete.bind fun _ => hP.txDispatch)

theorem transmitDone (hP : KeptAround i P) {status : TxStatus} {tag : Nat} : Keeps P (transmitDone i status tag) :=
  Keeps.ask.bind fun _ => Keeps.ite hP.completed Keeps.pure

theorem selfTestDone (hP : KeptAround i P) : Keeps P (selfTestDone i) := Keeps.ask.bind fun _ => hP.changeCtl

theorem powerOnInst (hP : KeptAround i P) : Keeps P (powerOnInst i) := hP.changeCtl.bind fun _ => hP.resetFull

end KeptAround

/-! ### Operations -/

theorem Keeps.runOp {m : Op Unit} (hm : Keeps P m) {s t : State} (h : runOp m s = .next t) (hs : P s) : P t :=
  runOp_next.1 h ▸ hm.endState hs

theorem Keeps.inMode {k : Mode} {m : Op Unit} (hm : Keeps P m) {s t : State} (h : inMode k i m s = .next t)
    (hs : P s) : P t := (inMode_next.1 h).2 ▸ hm.endState hs

theorem execRxf_keeps (hP : KeptAround i P) {f : List Byte} {s t : State} (h : execRxf i f s = .next t)
    (hs : P s) : P t := by
  unfold execRxf at h
  split at h
  · exact hP.receive.runOp h hs
  · cases h

theorem execStdone_keeps (hP : KeptAround i P) {s t : State} (h : execStdone i s = .next t) (hs : P s) : P t := by
  unfold execStdone at h
  split at h
  · exact hP.selfTestDone.runOp h hs
  · cases h

theorem execAck_keeps {s t : State} (ho : KeptOutside P) (hc : ∀ j, ackTarget s = some j → KeptAround j P)
    (h : execAck s = .next t) (hs : P s) : P t := by
  rw [← runOp_next.1 h]
  show P (ackState s)
  unfold ackState
  cases hj : ackTarget s with
  | none => exact ho.setYield _ _ hs
  | some j => exact ho.setYield _ _ ((hc j hj).onCtl _ _ ((hc j hj).clrInt _ hs))

theorem execBusreset_keeps (hP : ∀ j, KeptAround j P) {s t : State} (h : execBusreset s = .next t) (hs : P s) : P t :=
  ((hP .i0).resetFull.bind fun _ => (hP .i1).resetFull).runOp h hs

theorem execPoweron_keeps (hP : ∀ j, KeptAround j P) {s t : State} (h : execPoweron s = .next t) (hs : P s) : P t :=
  ((hP .i0).powerOnInst.bind fun _ => (hP .i1).powerOnInst.bind fun _ =>
    Keeps.change fun _ => (hP .i0).setCoord _ _ _).runOp h hs

/-- An operation keeps every property that no change outside the instances, and no change of an instance it needs,
breaks. -/
theorem exec_keeps {op : Instr} {s t : State} (ho : KeptOutside P)
    (hc : ∀ j ∈ needs (ackTarget s) op, ∀ f s, P s → P (onCtl j f s)) (h : exec op s = .next t) (hs : P s) : P t := by
  have around : ∀ j, j ∈ needs (ackTarget s) op → KeptAround j P := fun j hj => ⟨ho, hc j hj⟩
  have at' : ∀ j, needs (ackTarget s) op = [j] → KeptAround j P := fun j e => around j (e ▸ List.mem_singleton_self j)
  cases op with
  | lRdSa0 j | lRdSa1 j | cRdSa0 j | cRdSa1 j => exact ho.readStationOrCheck.inMode h hs
  | lRdSa2 j | lRdSa3 j | lRdSa4 j | lRdSa5 j | cRdSa2 j | cRdSa3 j | cRdSa4 j | cRdSa5 j
  | tRdSa0 j | tRdSa1 j | tRdSa2 j | tRdSa3 j | tRdSa4 j | tRdSa5 j => exact ho.readStation.inMode h hs
  | lRdVar j | cRdVar j => exact ho.readVar.inMode h hs
  | lRdCsr j | cRdCsr j => exact ho.readCsr.inMode h hs
  | tRdSrr j => exact ho.readSrr.inMode h hs
  | tRdRsv j => exact ho.readReserved.inMode h hs
  | lWrSa0 j d | lWrSa1 j d | cWrSa0 j d | cWrSa1 j d | tWrIgn0 j d | tWrIgn1 j d | tWrIgn5 j d =>
    exact Keeps.writeIgnored.inMode h hs
  | lWrRbdlLo j d | cWrRbdlLo j d => exact (at' j rfl).writeRbdlLo.inMode h hs
  | lWrRbdlHi j d | cWrRbdlHi j d => exact (at' j rfl).writeRbdlHi.inMode h hs
  | lWrXbdlLo j d | cWrXbdlLo j d => exact (at' j rfl).writeXbdlLo.inMode h hs
  | lWrXbdlHi j d | cWrXbdlHi j d => exact (at' j rfl).writeXbdlHi.inMode h hs
  | lWrVar j d | cWrVar j d => exact (at' j rfl).writeVar.inMode h hs
  | lWrCsr j d | cWrCsr j d => exact (at' j rfl).writeCsr.inMode h hs
  | tWrIbaLo j d => exact (at' j rfl).writeIbaLo.inMode h hs
  | tWrIbaHi j d => exact (at' j rfl).writeIbaHi.inMode h hs
  | tWrIcr j d => exact (at' j rfl).writeIcr.inMode h hs
  | tWrSrqr j d => exact (at' j rfl).writeSrqr.inMode h hs
  | tWrArqr j d => exact (at' j rfl).writeArqr.inMode h hs
  | ack => exact execAck_keeps ho (fun j hj => around j (by simp [needs, hj])) h hs
  | tick j => exact (at' j rfl).tick.runOp h hs
  | rxf j frame => exact execRxf_keeps (at' j rfl) h hs
  | txdone j status tag => exact (at' j rfl).transmitDone.runOp h hs
  | stdone j => exact execStdone_keeps (at' j rfl) h hs
  | busreset => exact execBusreset_keeps (fun j => around j (by cases j <;> simp [needs])) h hs
  | poweron => exact execPoweron_keeps (fun j => around j (by cases j <;> simp [needs])) h hs
  | reserved37 | reserved38to3F code => exact ho.refuse.runOp h hs

/-- What an instance holds is outside the rest of the state. -/
theorem keptOutside_ctl (u : Inst) (c : Ctl) : KeptOutside fun s => s.ctl u = c where
  setCoord s n l h := (s.setCoord_ctl n l u).trans h
  setFault s r h := (s.setFault_ctl r u).trans h
  addRefusal s r h := (s.addRefusal_ctl r u).trans h
  nextDraw s h := (s.nextDraw_ctl u).trans h
  setYield s v h := (s.setYield_ctl v u).trans h
  putByte s a b h := (s.putByte_ctl a b u).trans h
  setConcurrent s v h := (s.setConcurrent_ctl v u).trans h
  addTrace s e h := (s.addTrace_ctl e u).trans h
  addEvent s e h := (s.addEvent_ctl e u).trans h

/-- Settles O58: the state of an instance that the operation does not need is a property of the kind `exec_keeps` keeps. -/
theorem otherInstanceKept : Obligations.OtherInstanceKept := by
  intro op u s t hu h
  refine exec_keeps (P := fun t => t.ctl u = s.ctl u) (keptOutside_ctl u (s.ctl u)) ?_ h rfl
  intro j hj f v hv
  have hne : u ≠ j := fun e => hu (e ▸ hj)
  rw [onCtl, State.setCtl_ctl_ne _ _ _ _ hne, hv]

end Sys2Proof.Machine
end

section
/-! What a step does with the head of the inputs (rules R5, R53, R76): the record of a well-formed operation decodes to it,
and each way a step can go is one lemma. -/

namespace Sys2Proof

/-! ### The record of an operation decodes to it -/

theorem instOf_instByte (i : Inst) : instOf (instByte i) = some i := by cases i <;> rfl

theorem statusOf_statusByte (st : TxStatus) : statusOf (statusByte st) = some st := by cases st <;> rfl

theorem decodeInst_instByte (mk : Inst → Instr) (i : Inst) : decodeInst mk [instByte i] = .ok (mk i) := by
  simp only [decodeInst, instOf_instByte]

theorem decodeWrite_bytes (mk : Inst → Word → Instr) (i : Inst) (d : Word) :
    decodeWrite mk [instByte i, d.setWidth 8, (d >>> 8).setWidth 8] = .ok (mk i d) := by
  have hd : (d >>> 8).setWidth 8 ++ d.setWidth 8 = d := Machine.wordOf_low_high d
  simp only [decodeWrite, instOf_instByte, hd]

theorem natOfBytes_natBytes {fuel n : Nat} (h : n ≤ fuel) : natOfBytes (natBytes fuel n) = n := by
  induction fuel generalizing n with
  | zero => obtain rfl : n = 0 := by omega
            rfl
  | succ fuel ih =>
    cases n with
    | zero => rfl
    | succ n =>
      rw [natBytes, natOfBytes, ih (by omega), BitVec.toNat_ofNat]
      omega

theorem decodeRxf_instByte (i : Inst) (frame : List Byte) : decodeRxf (instByte i :: frame) = .ok (.rxf i frame) := by
  simp only [decodeRxf, instOf_instByte]

theorem decodeTxdone_bytes (i : Inst) (st : TxStatus) (tag : Nat) :
    decodeTxdone (instByte i :: statusByte st :: natBytes tag tag) = .ok (.txdone i st tag) := by
  simp only [decodeTxdone, instOf_instByte, statusOf_statusByte, natOfBytes_natBytes (Nat.le_refl tag)]

theorem decode_encode_reserved : ∀ code : BitVec 6, 0x38 ≤ code →
    decode (encode (.reserved38to3F code)) = .ok (.reserved38to3F code) := by decide

/-- Decoding undoes encoding, operand by operand. -/
theorem decode_encode {i : Instr} (h : i.wellFormed = true) : decode (encode i) = .ok i := by
  cases i with
  | lRdSa0 i | lRdSa1 i | lRdSa2 i | lRdSa3 i | lRdSa4 i | lRdSa5 i | lRdVar i | lRdCsr i
  | cRdSa0 i | cRdSa1 i | cRdSa2 i | cRdSa3 i | cRdSa4 i | cRdSa5 i | cRdVar i | cRdCsr i
  | tRdSa0 i | tRdSa1 i | tRdSa2 i | tRdSa3 i | tRdSa4 i | tRdSa5 i | tRdSrr i | tRdRsv i
  | tick i | stdone i => exact decodeInst_instByte _ i
  | lWrSa0 i d | lWrSa1 i d | lWrRbdlLo i d | lWrRbdlHi i d | lWrXbdlLo i d | lWrXbdlHi i d | lWrVar i d | lWrCsr i d
  | cWrSa0 i d | cWrSa1 i d | cWrRbdlLo i d | cWrRbdlHi i d | cWrXbdlLo i d | cWrXbdlHi i d | cWrVar i d | cWrCsr i d
  | tWrIgn0 i d | tWrIgn1 i d | tWrIbaLo i d | tWrIbaHi i d | tWrIcr i d | tWrIgn5 i d | tWrSrqr i d | tWrArqr i d =>
    exact decodeWrite_bytes _ i d
  | rxf i frame => exact decodeRxf_instByte i frame
  | txdone i st tag => exact decodeTxdone_bytes i st tag
  | ack | busreset | poweron | reserved37 => rfl
  | reserved38to3F code => exact decode_encode_reserved code (by simpa [Instr.wellFormed] using h)

end Sys2Proof

namespace Sys2Proof.Machine

/-! ### The ways of a step -/

theorem step_of_fault {s : State} {r : FaultReason} (h : s.fault = some r) : step s = .fault (.blockFaulted r) := by
  simp only [step, runStep, h]

theorem step_of_brokenCoordinator {s : State} (hf : s.fault = none) (hc : coordinatorOk s = false) :
    step s = .next (s.setFault .invariant) := by
  simp [step, runStep, hf, hc]

theorem step_of_sound {s : State} (hf : s.fault = none) (hc : coordinatorOk s = true) : step s = runInputs s := by
  simp [step, runStep, hf, hc]

theorem runInputs_nil {s : State} (h : s.inputs = []) : runInputs s = .next s := by
  simp only [runInputs, h]

theorem runInputs_cons {s : State} {x : Input} {rest : List Input} (h : s.inputs = x :: rest) :
    runInputs s = runFetched (fetchInput s x) (s.setInputs rest) := by
  simp only [runInputs, h]

/-- An input that comes to a record runs that record, with the input taken off. -/
theorem step_of_record {s : State} {x : Input} {rest : List Input} {r : List Byte} (hf : s.fault = none)
    (hc : coordinatorOk s = true) (hi : s.inputs = x :: rest) (hx : fetchInput s x = .record r) :
    step s = runRecord r (s.setInputs rest) := by
  rw [step_of_sound hf hc, runInputs_cons hi, hx, runFetched]

theorem runRecord_of_decode {r : List Byte} {i : Instr} (h : decode r = .ok i) (s : State) :
    runRecord r s = runInstr i s := by
  simp only [runRecord, h]

theorem runRecord_of_error {r : List Byte} {e : DecodeError} (h : decode r = .error e) (s : State) :
    runRecord r s = .refused (.undecodable e) := by
  simp only [runRecord, h]

/-- The inputs are no part of what an acknowledge serves. -/
theorem ackTarget_setInputs (s : State) (v : List Input) : ackTarget (s.setInputs v) = ackTarget s := rfl

theorem runInstr_of_free {s : State} {i : Instr} (h : ∀ u ∈ needs (ackTarget s) i, (s.ctl u).hung = false) :
    runInstr i s = exec i (settled i s) := by
  have hb : blockedBy s (ackTarget s) i = none := List.find?_eq_none.2 fun u hu => by simp [h u hu]
  simp only [runInstr, hb]

theorem runInstr_of_hung {s : State} {i : Instr} {u : Inst} (hn : needs (ackTarget s) i = [u])
    (h : (s.ctl u).hung = true) : runInstr i s = .fault (.instanceHung u) := by
  have hb : blockedBy s (ackTarget s) i = some u := by simp [blockedBy, hn, h]
  simp only [runInstr, hb]

/-- Settles O5: the head of the inputs is decoded, no needed instance is hung, and the driver's writes have landed where
`settled` lands them. -/
theorem stepRunsDecoded : Obligations.StepRunsDecoded := by
  intro s x rest r i hf hc hi hx hr hfree
  rw [step_of_record hf hc hi hx, runRecord_of_decode hr, runInstr_of_free (s := s.setInputs rest), settled]
  simpa [ackTarget_setInputs] using hfree

/-- Settles O6: each clause is one way of a step that reaches no operation. -/
theorem stepElsewhere : Obligations.StepElsewhere := by
  intro s
  refine ⟨fun r => step_of_fault, step_of_brokenCoordinator, fun hf hc hi => ?_, ?_, ?_⟩
  · rw [step_of_sound hf hc, runInputs_nil hi]
  · intro u i rest hf hc hi hw hn hu
    rw [step_of_record hf hc hi rfl, runRecord_of_decode (decode_encode hw),
      runInstr_of_hung (by rwa [ackTarget_setInputs]) (by simpa using hu)]
  · intro r e rest hf hc hi he
    rw [step_of_record hf hc hi rfl, runRecord_of_error he]

end Sys2Proof.Machine
end

section
/-! Chain descriptors of the classic lists (rules R141, R142, R144): a walk goes to the address the chain names, and one that
names itself brings the walk back to where it stood. -/

namespace Sys2Proof.Machine

/-! ### Fetching a descriptor -/

/-- A nonzero byte is read back wherever it was put, in any list of cells: such a write only inserts or replaces one. -/
theorem Memory.get_put_of_ne_zero {m : List Host.Cell} {a : Nat} {b : Byte} (hb : b ≠ 0) (c : Nat) :
    Memory.get (Memory.put m a b) c = if c = a then b else Memory.get m c := by
  induction m with
  | nil => simp only [Memory.put, if_neg hb, Memory.get, eq_comm (a := a)]
  | cons d rest ih =>
    obtain ⟨k, v⟩ := d
    simp only [Memory.put, if_neg hb]
    split
    · simp only [Memory.get, eq_comm (a := a)]
    · split
      · subst a
        simp only [Memory.get, eq_comm (a := k)]
        split <;> rfl
      · by_cases hk : k = c
        · subst hk
          simp only [Memory.get, if_true]
          rw [if_neg (by omega)]
        · simp only [Memory.get, if_neg hk, ih]

theorem State.byteAt_putByte_of_ne_zero {s : State} {a : Addr} {b : Byte} (hb : b ≠ 0) (c : Addr) :
    (s.putByte a b).byteAt c = if locate s.cfg c = locate s.cfg a ∧ backed s.cfg a = true then b else s.byteAt c := by
  cases ha : locate s.cfg a with
  | none => rw [State.putByte_of_none ha]; simp [backed, ha]
  | some k =>
    rw [State.putByte_of_some ha]
    cases hc : locate s.cfg c with
    | none => simp [State.byteAt, hc]
    | some j => simp [State.byteAt, hc, backed, ha, Memory.get_put_of_ne_zero hb]

theorem State.byteAt_putWord_of_ne_zero {s : State} {a : Addr} {v : Word} (hl : lowByte v ≠ 0) (hh : highByte v ≠ 0)
    (c : Addr) :
    (s.putWord a v).byteAt c
      = if locate s.cfg c = locate s.cfg (a + 1) ∧ backed s.cfg (a + 1) = true then highByte v
        else if locate s.cfg c = locate s.cfg a ∧ backed s.cfg a = true then lowByte v else s.byteAt c := by
  rw [State.putWord, State.byteAt_putByte_of_ne_zero hh, State.byteAt_putByte_of_ne_zero hl, State.putByte_cfg]

@[simp] theorem State.fetched_cfg (s : State) (p : Addr) : (s.fetched p).cfg = s.cfg := by
  unfold State.fetched; split <;> simp
@[simp] theorem State.fetched_ctl (s : State) (p : Addr) (i : Inst) : (s.fetched p).ctl i = s.ctl i := by
  unfold State.fetched; split <;> simp
@[simp] theorem State.fetched_concurrent (s : State) (p : Addr) : (s.fetched p).concurrent = s.concurrent := by
  unfold State.fetched; split <;> simp

theorem State.fetched_of_noFlag {s : State} (h : s.cfg.writeFlagWord = false) (p : Addr) : s.fetched p = s := by
  simp [State.fetched, h]

/-- Fetching a descriptor a second time finds every byte as the first fetch left it. -/
theorem State.byteAt_fetched_fetched (s : State) (p c : Addr) :
    ((s.fetched p).fetched p).byteAt c = (s.fetched p).byteAt c := by
  cases hw : s.cfg.writeFlagWord with
  | false => rw [State.fetched_of_noFlag hw, State.fetched_of_noFlag hw]
  | true =>
    have once : ∀ t : State, t.cfg = s.cfg → (t.fetched p).byteAt c = (t.putWord p 0xFFFF).byteAt c := by
      intro t ht
      rw [State.fetched, ht, hw, if_pos rfl]
      rfl
    have hl : lowByte (0xFFFF : Word) ≠ 0 := by decide
    have hh : highByte (0xFFFF : Word) ≠ 0 := by decide
    rw [once _ (s.fetched_cfg p), State.byteAt_putWord_of_ne_zero hl hh, State.fetched_cfg, once s rfl,
      State.byteAt_putWord_of_ne_zero hl hh]
    split_ifs <;> rfl

theorem State.descAt_congr {s t : State} (h : ∀ a, s.byteAt a = t.byteAt a) (p : Addr) : s.descAt p = t.descAt p := by
  simp only [State.descAt, State.wordAt, h]

/-- The descriptor at `p` can be accessed: its fetch answers what memory holds after the flag word (rule R140). -/
theorem fetchDesc_of_ready {i : Inst} {p : Addr} {s : State} (h : descReady s.cfg p = true) (hq : s.Quiet) :
    fetchDesc i p s = .ok ((s.fetched p).descAt p) (s.fetched p) := by
  simp only [descReady, Bool.and_eq_true] at h
  obtain ⟨⟨⟨⟨⟨h0, h1⟩, h2⟩, h3⟩, h4⟩, h5⟩ := h
  have read : ∀ a, wordReady s.cfg a = true → readWord i .fetch a (s.fetched p) = .ok ((s.fetched p).wordAt a) (s.fetched p) :=
    fun a ha => readWord_of_ready (by simpa using ha) (by simpa using hq)
  have words : (do
      let w0 ← readWord i .fetch p
      let w1 ← readWord i .fetch (p + 2)
      let w2 ← readWord i .fetch (p + 4)
      let w3 ← readWord i .fetch (p + 6)
      let w4 ← readWord i .fetch (p + 8)
      let w5 ← readWord i .fetch (p + 10)
      pure ({ w0, w1, w2, w3, w4, w5 } : Desc)) (s.fetched p) = .ok ((s.fetched p).descAt p) (s.fetched p) := by
    rw [op_bind_ok (read _ h0), op_bind_ok (read _ h1), op_bind_ok (read _ h2), op_bind_ok (read _ h3),
      op_bind_ok (read _ h4), op_bind_ok (read _ h5)]
    rfl
  rw [fetchDesc, op_bind_ok (getCfg_apply s)]
  cases hw : s.cfg.writeFlagWord with
  | false =>
    rw [State.fetched_of_noFlag hw] at words ⊢
    exact words
  | true =>
    have flagged : s.fetched p = s.wroteWord p 0xFFFF := by rw [State.fetched, hw, if_pos rfl]
    rw [flagged] at words ⊢
    rw [if_pos rfl, op_bind_ok (writeWord_of_ready h0 hq)]
    exact words

/-! ### Replacing an instance's state leaves guest memory -/

theorem State.putByte_setCtl (s : State) (i : Inst) (c : Ctl) (a : Addr) (b : Byte) :
    (s.setCtl i c).putByte a b = (s.putByte a b).setCtl i c := by
  unfold State.putByte
  rw [State.setCtl_cfg, State.setCtl_mem]
  cases locate s.cfg a <;> cases i <;> rfl

theorem State.wroteWord_setCtl (s : State) (i : Inst) (c : Ctl) (a : Addr) (v : Word) :
    (s.setCtl i c).wroteWord a v = (s.wroteWord a v).setCtl i c := by
  rw [State.wroteWord, State.putWord, State.putByte_setCtl, State.putByte_setCtl]
  cases i <;> rfl

theorem State.fetched_setCtl (s : State) (i : Inst) (c : Ctl) (p : Addr) :
    (s.setCtl i c).fetched p = (s.fetched p).setCtl i c := by
  unfold State.fetched
  rw [State.setCtl_cfg, State.wroteWord_setCtl]
  split <;> rfl

theorem State.descAt_setCtl (s : State) (i : Inst) (c : Ctl) (p : Addr) : (s.setCtl i c).descAt p = s.descAt p :=
  State.descAt_congr (fun a => by cases i <;> rfl) p

theorem onCtl_setCtl (i : Inst) (f : Ctl → Ctl) (s : State) (c : Ctl) : onCtl i f (s.setCtl i c) = s.setCtl i (f c) := by
  rw [onCtl, State.setCtl_ctl_same, State.setCtl_setCtl]

/-! ### CSR changes that leave the interrupt bits -/

theorem csrAfter_getLsbD_of_untouched {csr set clr : Word} {n : Nat} (hs : set.getLsbD n = false)
    (hc : clr.getLsbD n = false) : (csrAfter csr set clr).getLsbD n = csr.getLsbD n := by
  rcases Nat.lt_or_ge n 16 with hn | hn
  · simp only [csrAfter, BitVec.getLsbD_and, BitVec.getLsbD_or, BitVec.getLsbD_not, hs, hc, hn, decide_true,
      Bool.or_false, Bool.not_false, Bool.and_true]
  · rw [BitVec.getLsbD_of_ge _ _ hn, BitVec.getLsbD_of_ge _ _ hn]

theorem csrAfter_clear (csr m : Word) : csrAfter csr 0 m = csr &&& ~~~m := by simp [csrAfter]

/-- Setting bits after clearing them is setting them. -/
theorem csrAfter_set_clear (csr m : Word) : csrAfter (csr &&& ~~~m) m 0 = csr ||| m := by
  apply BitVec.eq_of_getLsbD_eq
  intro n hn
  simp only [csrAfter, BitVec.getLsbD_and, BitVec.getLsbD_or, BitVec.getLsbD_not, hn, decide_true, Bool.true_and]
  cases csr.getLsbD n <;> cases m.getLsbD n <;> simp

/-- In a classic mode a change of other CSR bits than IE, XI and RI neither makes nor withdraws a justified request (rule
R197). -/
theorem csrChange_of_untouched {i : Inst} {set clr : Word} {s : State} {c : Ctl} (hm : c.mode ≠ .turbo)
    (hr : RequestOk c) (h : ∀ n ∈ [Csr.IE, Csr.XI, Csr.RI], set.getLsbD n = false ∧ clr.getLsbD n = false) :
    csrChange i set clr (s.setCtl i c) = s.setCtl i (c.setCsr (csrAfter c.classic.csr set clr)) := by
  have bit : ∀ n ∈ [Csr.IE, Csr.XI, Csr.RI], (csrAfter c.classic.csr set clr).getLsbD n = c.classic.csr.getLsbD n :=
    fun n hn => csrAfter_getLsbD_of_untouched (h n hn).1 (h n hn).2
  have hIE := bit Csr.IE (by simp)
  have hXI := bit Csr.XI (by simp)
  have hRI := bit Csr.RI (by simp)
  simp only [RequestOk, if_neg hm] at hr
  unfold csrChange
  simp only [State.setCtl_ctl_same, onCtl_setCtl]
  rcases intClassic_cases i c.classic.csr (csrAfter c.classic.csr set clr)
    (s.setCtl i (c.setCsr (csrAfter c.classic.csr set clr))) with ⟨edge, _⟩ | ⟨_, withdraw, e⟩ | ⟨_, _, e⟩
  · rw [intEdge, hIE, hXI, hRI] at edge
    revert edge
    cases c.classic.csr.getLsbD Csr.IE <;> simp
  · have idle : c.pending = false := by
      rw [intWithdraw, hIE, hXI, hRI] at withdraw
      by_contra hp
      obtain ⟨ie, xi | ri⟩ := hr (by simpa using hp)
      · simp only [ie, xi, Bool.not_true, Bool.false_and, Bool.or_false, Bool.false_eq_true] at withdraw
      · simp only [ie, ri, Bool.not_true, Bool.and_false, Bool.or_false, Bool.false_eq_true] at withdraw
    rw [e, clrInt]
    simp [idle]
  · exact e

/-! ### Walks that end under any bound, and walks that come back -/

variable {α : Type} {i : Inst}

theorem cappedWalk_of_ends {pass : α → Op (Pass α)} {a : Nat → α} {σ : Nat → State} {N : Nat} (h : Ends pass a σ N)
    (n k : Nat) (hk : k ≤ N) (hn : N < k + n) : cappedWalk i pass n (a k) (σ k) = walkEnd (pass (a N) (σ N)) := by
  induction n generalizing k with
  | zero => omega
  | succ n ih =>
    by_cases hN : k = N
    · subst hN
      rw [cappedWalk, op_bind]
      cases hp : pass (a k) (σ k) with
      | error e t => rfl
      | ok r t =>
        cases r with
        | again b => exact absurd hp (h.stops b t)
        | ended b => rfl
    · rw [cappedWalk, op_bind_ok (h.goesOn k (by omega))]
      exact ih (k + 1) (by omega) (by omega)

/-- A classic walk whose passes end, from points all different, ends as the last of them does, under any bound that lets
it be made. -/
theorem classicWalk_of_ends {pass : Unit → Op (Pass Unit)} {σ : Nat → State} {N : Nat} (h : Ends pass (fun _ => ()) σ N)
    (hN : N < 2 ^ 26) (hcap : ∀ n, (σ 0).cfg.chainCap = some n → N < n) :
    classicWalk i pass (σ 0) = walkEnd (pass () (σ N)) := by
  rw [classicWalk, op_bind_ok (getCfg_apply _)]
  cases hc : (σ 0).cfg.chainCap with
  | none => exact freeWalk_of_ends h hN
  | some n => exact cappedWalk_of_ends h n 0 (Nat.zero_le N) (by have := hcap n hc; omega)

/-- The points of a walk of two passes. -/
def twoPoints (s t : State) : Nat → State
  | 0 => s
  | _ + 1 => t

theorem classicWalk_of_second {pass : Unit → Op (Pass Unit)} {s t r : State} (h0 : pass () s = .ok (.again ()) t)
    (h1 : pass () t = .ok (.ended ()) r) (hd : sameWalk s t = false)
    (hcap : ∀ n, s.cfg.chainCap = some n → 1 < n) : classicWalk i pass s = .ok () r := by
  have e : Ends pass (fun _ => ()) (twoPoints s t) 1 :=
    { goesOn := fun n hn => by obtain rfl : n = 0 := by omega
                               exact h0
      stops := fun b u hb => by cases hb.symm.trans h1
      differ := fun m n hmn hn => by obtain ⟨rfl, rfl⟩ : m = 0 ∧ n = 1 := by omega
                                     exact hd }
  have walk := classicWalk_of_ends (i := i) e (by decide) hcap
  rwa [show twoPoints s t 1 = t from rfl, h1] at walk

/-- A pass that leaves the state as it found it never ends: without a bound the walk hangs (rules R9, R144). -/
theorem freeWalk_of_fixpoint {pass : α → Op (Pass α)} {a : α} {s : State} (h : pass a s = .ok (.again a) s) :
    freeWalk i pass a s = .error .hung (onCtl i (·.setHung true) s) := by
  have back : lap pass s 0 a s = .ok .repeated s := by
    rw [lap, op_bind_ok h]
    simp only
    rw [op_bind_ok (ask_apply _ s)]
    simp [sameWalk]
  obtain ⟨n, hn⟩ := Nat.exists_eq_add_of_le' (Nat.le_trans (by decide : 1 ≤ 27) hangLaps_large)
  have never : laps pass hangLaps 0 a s = .ok none s := by
    rw [hn, laps, op_bind_ok (ask_apply id s)]
    simp only [id]
    rw [op_bind_ok back]
    rfl
  rw [freeWalk, op_bind_ok never]
  rfl

/-- The bound ends such a walk with an NXM. -/
theorem cappedWalk_of_fixpoint {pass : α → Op (Pass α)} {a : α} {s : State} (h : pass a s = .ok (.again a) s) (n : Nat) :
    cappedWalk i pass n a s = .error (.nxm .chainCap) (nxmClassic i s) := by
  induction n with
  | zero => rfl
  | succ n ih => rw [cappedWalk, op_bind_ok h]; exact ih

/-- Two points of one walk have the same classic registers and walk pointers. -/
theorem classic_eq_of_sameWalk {s t : State} (h : sameWalk s t = true) (i : Inst) :
    (s.ctl i).classic = (t.ctl i).classic := by
  have key : walkKey s = walkKey t := of_decide_eq_true h
  cases i with
  | i0 => exact congrArg (fun k : State => k.i0.classic) (a₁ := walkKey s) (a₂ := walkKey t) key
  | i1 => exact congrArg (fun k : State => k.i1.classic) (a₁ := walkKey s) (a₂ := walkKey t) key

/-! ### Chain descriptors -/

/-- A valid chain descriptor stands at `b`, as a fetch finds it (rule R142). -/
def State.ChainAt (s : State) (b : Addr) : Prop :=
  descReady s.cfg b = true ∧ descValid ((s.fetched b).descAt b) = true ∧ descChain ((s.fetched b).descAt b) = true

/-- The address the descriptor at `b` names. -/
def State.linked (s : State) (b : Addr) : Addr := descAddr ((s.fetched b).descAt b)

/-- The state after the descriptor at `b` and the one it names are fetched. -/
def State.followed (s : State) (b : Addr) : State := (s.fetched b).fetched (s.linked b)

/-- The chain descriptor at `b` leads to an invalid descriptor. -/
def State.LeadsToEnd (s : State) (b : Addr) : Prop :=
  s.ChainAt b ∧ descReady s.cfg (s.linked b) = true ∧ descValid ((s.followed b).descAt (s.linked b)) = false

/-- A chain that leads to an invalid descriptor does not name itself: a second fetch would find it valid again. -/
theorem State.LeadsToEnd.linked_ne {s : State} {b : Addr} (h : s.LeadsToEnd b) : s.linked b ≠ b := by
  obtain ⟨⟨_, valid, _⟩, _, invalid⟩ := h
  intro e
  have again : (s.followed b).descAt (s.linked b) = (s.fetched b).descAt b := by
    rw [State.followed, e]
    exact State.descAt_congr (s.byteAt_fetched_fetched b) b
  rw [again, valid] at invalid
  cases invalid

/-- What the receive and the transmit walk share: the pointer they follow, and what they do at a chain descriptor and at an
invalid one (rules R141, R142). -/
structure ListWalk (i : Inst) (pass : Unit → Op (Pass Unit)) (ptr : Classic → Addr) (setPtr : Ctl → Addr → Ctl)
    (endMask : Word) : Prop where
  ptr_setPtr : ∀ c p, ptr (setPtr c p).classic = p
  atChain : ∀ {s : State} {c : Ctl} {b : Addr}, s.Quiet → ptr c.classic = b → s.ChainAt b →
    pass () (s.setCtl i c) = .ok (.again ()) ((s.fetched b).setCtl i (setPtr c (s.linked b)))
  atInvalid : ∀ {s : State} {c : Ctl} {b : Addr}, s.Quiet → ptr c.classic = b → descReady s.cfg b = true →
    descValid ((s.fetched b).descAt b) = false →
    pass () (s.setCtl i c) = .ok (.ended ()) (csrChange i endMask 0 ((s.fetched b).setCtl i c))

theorem fetchDesc_setCtl {s : State} {c : Ctl} {b : Addr} (h : descReady s.cfg b = true) (hq : s.Quiet) :
    fetchDesc i b (s.setCtl i c) = .ok ((s.fetched b).descAt b) ((s.fetched b).setCtl i c) := by
  rw [fetchDesc_of_ready (by simpa using h) ((s.setCtl_concurrent i c).trans hq), State.fetched_setCtl, State.descAt_setCtl]

theorem rxListWalk (i : Inst) : ListWalk i (rxPass i) Classic.rptr Ctl.setRptr Csr.rlMask where
  ptr_setPtr _ _ := rfl
  atChain {s c b} hq hb h := by
    obtain ⟨ready, valid, chain⟩ := h
    subst hb
    rw [rxPass, op_bind_ok (getCtl_apply i _), State.setCtl_ctl_same, op_bind_ok (fetchDesc_setCtl ready hq)]
    simp only [valid, chain, Bool.not_true, Bool.false_eq_true, if_false, if_true]
    rw [op_bind_ok (changeCtl_apply i _ _), onCtl_setCtl]
    rfl
  atInvalid {s c b} hq hb ready invalid := by
    subst hb
    rw [rxPass, op_bind_ok (getCtl_apply i _), State.setCtl_ctl_same, op_bind_ok (fetchDesc_setCtl ready hq)]
    simp only [invalid, Bool.not_false, if_true]
    rfl

theorem txListWalk (i : Inst) : ListWalk i (txPass i) Classic.xptr Ctl.setXptr Csr.xlMask where
  ptr_setPtr _ _ := rfl
  atChain {s c b} hq hb h := by
    obtain ⟨ready, valid, chain⟩ := h
    subst hb
    rw [txPass, op_bind_ok (getCtl_apply i _), State.setCtl_ctl_same, op_bind_ok (fetchDesc_setCtl ready hq)]
    simp only [valid, chain, Bool.not_true, Bool.false_eq_true, if_false, if_true]
    rw [op_bind_ok (changeCtl_apply i _ _), onCtl_setCtl]
    rfl
  atInvalid {s c b} hq hb ready invalid := by
    subst hb
    rw [txPass, op_bind_ok (getCtl_apply i _), State.setCtl_ctl_same, op_bind_ok (fetchDesc_setCtl ready hq)]
    simp only [invalid, Bool.not_false, if_true]
    rfl

namespace ListWalk

variable {pass : Unit → Op (Pass Unit)} {ptr : Classic → Addr} {setPtr : Ctl → Addr → Ctl} {endMask : Word}
  {s : State} {c : Ctl} {b : Addr}

/-- A walk whose first descriptor chains to an invalid one ends there. -/
theorem ends_at_linked (w : ListWalk i pass ptr setPtr endMask) (hq : s.Quiet) (hb : ptr c.classic = b)
    (h : s.LeadsToEnd b) (hcap : ∀ n, s.cfg.chainCap = some n → 1 < n) :
    classicWalk i pass (s.setCtl i c)
      = .ok () (csrChange i endMask 0 ((s.followed b).setCtl i (setPtr c (s.linked b)))) := by
  have ⟨chain, ready, invalid⟩ := h
  refine classicWalk_of_second (w.atChain hq hb chain)
    (w.atInvalid ((s.fetched_concurrent b).trans hq) (w.ptr_setPtr _ _) (by simpa using ready) invalid) ?_ (by simpa using hcap)
  by_contra same
  have classic := classic_eq_of_sameWalk (Bool.not_eq_false _ ▸ same) i
  rw [State.setCtl_ctl_same, State.setCtl_ctl_same] at classic
  exact h.linked_ne ((w.ptr_setPtr c _).symm.trans (classic ▸ hb))

/-- The pass over a chain descriptor that names itself, its flag word not written, changes nothing. -/
theorem pass_self_chain (w : ListWalk i pass ptr setPtr endMask) (hset : setPtr c b = c) (hq : s.Quiet)
    (hb : ptr c.classic = b) (h : s.ChainAt b) (hl : s.linked b = b) (hw : s.cfg.writeFlagWord = false) :
    pass () (s.setCtl i c) = .ok (.again ()) (s.setCtl i c) := by
  rw [w.atChain hq hb h, hl, hset, State.fetched_of_noFlag hw]

end ListWalk

theorem classicWalk_hangs {pass : Unit → Op (Pass Unit)} {s : State} (h : pass () s = .ok (.again ()) s)
    (hc : s.cfg.chainCap = none) : classicWalk i pass s = .error .hung (onCtl i (·.setHung true) s) := by
  rw [classicWalk, op_bind_ok (getCfg_apply s), hc]
  exact freeWalk_of_fixpoint h

theorem classicWalk_exceeds {pass : Unit → Op (Pass Unit)} {s : State} {n : Nat} (h : pass () s = .ok (.again ()) s)
    (hc : s.cfg.chainCap = some n) : classicWalk i pass s = .error (.nxm .chainCap) (nxmClassic i s) := by
  rw [classicWalk, op_bind_ok (getCfg_apply s), hc]
  exact cappedWalk_of_fixpoint h n

/-! ### The writes that start a walk (rules R109, R111) -/

theorem exec_writeInstr_rbdlHi {m : Mode} (hm : m ≠ .turbo) {i : Inst} {d : Word} {s : State}
    (h : (s.ctl i).mode = m) : exec (writeInstr m 3 i d) s = runOp (writeRbdlHi i d) s := by
  have arm : exec (writeInstr m 3 i d) s = inMode m i (writeRbdlHi i d) s := by
    cases m with
    | legacy | compatible => rfl
    | turbo => exact absurd rfl hm
  rw [arm, inMode, if_pos h]

theorem exec_writeInstr_xbdlHi {m : Mode} (hm : m ≠ .turbo) {i : Inst} {d : Word} {s : State}
    (h : (s.ctl i).mode = m) : exec (writeInstr m 5 i d) s = runOp (writeXbdlHi i d) s := by
  have arm : exec (writeInstr m 5 i d) s = inMode m i (writeXbdlHi i d) s := by
    cases m with
    | legacy | compatible => rfl
    | turbo => exact absurd rfl hm
  rw [arm, inMode, if_pos h]

theorem handshakes_iff {cfg : Config} {i : Inst} {c : Ctl} {d : Word} :
    handshakes cfg i c d = true ↔
      (cfg.unit i).type = .turbo ∧ c.mode = .compatible ∧ c.classic.rbdlLo = cfg.handshakeLo ∧ d = cfg.handshakeHi := by
  simp [handshakes, and_assoc]

/-- An instance whose receive list a driver has just made valid at `b`. -/
def Ctl.withRxList (c : Ctl) (b : Addr) : Ctl := (c.setRptr b).setCsr (c.classic.csr &&& ~~~Csr.rlMask)

/-- An instance whose transmit list a driver has just made valid at `b`. -/
def Ctl.withTxList (c : Ctl) (b : Addr) : Ctl := (c.setXptr b).setCsr (c.classic.csr &&& ~~~Csr.xlMask)

/-- RequestOk reads the mode, the request and the interrupt bits of CSR only. -/
theorem RequestOk.of_csr {c c' : Ctl} (hm : c.mode ≠ .turbo) (h : RequestOk c) (mode : c'.mode = c.mode)
    (pending : c'.pending = c.pending)
    (bits : ∀ n ∈ [Csr.IE, Csr.XI, Csr.RI], c'.classic.csr.getLsbD n = c.classic.csr.getLsbD n) : RequestOk c' := by
  have hIE := bits Csr.IE (by simp)
  have hXI := bits Csr.XI (by simp)
  have hRI := bits Csr.RI (by simp)
  simp only [RequestOk, mode, if_neg hm, pending, hIE, hXI, hRI] at h ⊢
  exact h

theorem getLsbD_and_not_of_mem {csr m : Word} {n : Nat} (h : m.getLsbD n = true) : (csr &&& ~~~m).getLsbD n = false := by
  rw [BitVec.getLsbD_and, BitVec.getLsbD_not, h]
  simp

/-- Clearing other bits leaves a bit. -/
theorem getLsbD_and_not_of_not_mem {csr m : Word} {n : Nat} (h : m.getLsbD n = false) :
    (csr &&& ~~~m).getLsbD n = csr.getLsbD n :=
  csrAfter_clear csr m ▸ csrAfter_getLsbD_of_untouched BitVec.getLsbD_zero h

theorem Ctl.withRxList_rl (c : Ctl) (b : Addr) : (c.withRxList b).classic.csr.getLsbD Csr.RL = false :=
  getLsbD_and_not_of_mem (by decide)

theorem Ctl.withTxList_xl (c : Ctl) (b : Addr) : (c.withTxList b).classic.csr.getLsbD Csr.XL = false :=
  getLsbD_and_not_of_mem (by decide)

section

variable {i : Inst} {d : Word} {s : State} {m : Mode}

theorem csrChange_setRptr (hm : (s.ctl i).mode ≠ .turbo) (hr : RequestOk (s.ctl i)) (b : Addr) :
    csrChange i 0 Csr.rlMask (onCtl i (·.setRptr b) s) = s.setCtl i ((s.ctl i).withRxList b) := by
  have h := csrChange_of_untouched (i := i) (s := s) (c := (s.ctl i).setRptr b) (set := 0) (clr := Csr.rlMask) hm hr
    (by decide)
  rwa [csrAfter_clear] at h

theorem csrChange_setXptr (hm : (s.ctl i).mode ≠ .turbo) (hr : RequestOk (s.ctl i)) (b : Addr) :
    csrChange i 0 Csr.xlMask (onCtl i (·.setXptr b) s) = s.setCtl i ((s.ctl i).withTxList b) := by
  have h := csrChange_of_untouched (i := i) (s := s) (c := (s.ctl i).setXptr b) (set := 0) (clr := Csr.xlMask) hm hr
    (by decide)
  rwa [csrAfter_clear] at h

/-- The end of the list that was made valid at `b`, reached at `l`: RL is set and nothing else has changed. -/
theorem csrChange_rxListEnd {c : Ctl} (hm : c.mode ≠ .turbo) (hr : RequestOk c) (t : State) (b l : Addr) :
    csrChange i Csr.rlMask 0 (t.setCtl i ((c.withRxList b).setRptr l))
      = t.setCtl i { c with classic := { c.classic with rptr := l, csr := c.classic.csr ||| Csr.rlMask } } := by
  have ok : RequestOk ((c.withRxList b).setRptr l) := hr.of_csr hm rfl rfl fun n hn =>
    getLsbD_and_not_of_not_mem (by revert n; decide)
  rw [csrChange_of_untouched (c := (c.withRxList b).setRptr l) hm ok (by decide)]
  have csr : csrAfter ((c.withRxList b).setRptr l).classic.csr Csr.rlMask 0 = c.classic.csr ||| Csr.rlMask :=
    csrAfter_set_clear _ _
  rw [csr]
  rfl

/-- The same of the transmit list, with XL. -/
theorem csrChange_txListEnd {c : Ctl} (hm : c.mode ≠ .turbo) (hr : RequestOk c) (t : State) (b l : Addr) :
    csrChange i Csr.xlMask 0 (t.setCtl i ((c.withTxList b).setXptr l))
      = t.setCtl i { c with classic := { c.classic with xptr := l, csr := c.classic.csr ||| Csr.xlMask } } := by
  have ok : RequestOk ((c.withTxList b).setXptr l) := hr.of_csr hm rfl rfl fun n hn =>
    getLsbD_and_not_of_not_mem (by revert n; decide)
  rw [csrChange_of_untouched (c := (c.withTxList b).setXptr l) hm ok (by decide)]
  have csr : csrAfter ((c.withTxList b).setXptr l).classic.csr Csr.xlMask 0 = c.classic.csr ||| Csr.xlMask :=
    csrAfter_set_clear _ _
  rw [csr]
  rfl

/-- A write of RBDL_HI that is no handshake starts the receive walk on the new list. -/
theorem writeRbdlHi_starts (hm : (s.ctl i).mode ≠ .turbo) (hr : RequestOk (s.ctl i))
    (hh : handshakes s.cfg i (s.ctl i) d = false) :
    writeRbdlHi i d s
      = classicWalk i (rxPass i) (s.setCtl i ((s.ctl i).withRxList (addrOf d (s.ctl i).classic.rbdlLo))) := by
  rw [writeRbdlHi, op_bind_ok (getCtl_apply i s), op_bind_ok (getCfg_apply s), if_neg (by simp [hh]),
    op_bind_ok (changeCtl_apply i _ s), op_bind_ok (csrDevice_apply i _ _ _), csrChange_setRptr hm hr,
    rxDispatch, op_bind_ok (getCtl_apply i _), State.setCtl_ctl_same, Ctl.withRxList_rl]
  rfl

/-- A write of XBDL_HI with no message at the transport starts the transmit walk on the new list. -/
theorem writeXbdlHi_starts (hm : (s.ctl i).mode ≠ .turbo) (hr : RequestOk (s.ctl i))
    (hp : (s.ctl i).tx.txpend = none) :
    writeXbdlHi i d s
      = classicWalk i (txPass i) (s.setCtl i ((s.ctl i).withTxList (addrOf d (s.ctl i).classic.xbdlLo))) := by
  have idle : ∀ b, ((s.ctl i).withTxList b).tx.txpend = none := fun _ => hp
  rw [writeXbdlHi, op_bind_ok (getCtl_apply i s)]
  simp only [hp, Option.isSome_none, Bool.false_eq_true, if_false]
  rw [op_bind_ok (changeCtl_apply i _ s), op_bind_ok (csrDevice_apply i _ _ _), csrChange_setXptr hm hr,
    txDispatch, op_bind_ok (getCtl_apply i _), State.setCtl_ctl_same, Ctl.withTxList_xl, idle]
  rfl

/-! ### A write of a list base whose list starts with a chain -/

variable (hm : m ≠ .turbo) (hmode : (s.ctl i).mode = m) (hr : RequestOk (s.ctl i)) (hq : s.Quiet)

include hm hmode hr hq

theorem exec_rbdlHi_leads (hh : handshakes s.cfg i (s.ctl i) d = false) {b : Addr}
    (hb : addrOf d (s.ctl i).classic.rbdlLo = b) (h : s.LeadsToEnd b)
    (hcap : ∀ n, s.cfg.chainCap = some n → 1 < n) :
    exec (writeInstr m 3 i d) s = .next ((s.followed b).setCtl i { s.ctl i with
      classic := { (s.ctl i).classic with rptr := s.linked b, csr := (s.ctl i).classic.csr ||| Csr.rlMask } }) := by
  have hc : (s.ctl i).mode ≠ .turbo := hmode ▸ hm
  have walk := (rxListWalk i).ends_at_linked (c := (s.ctl i).withRxList b) hq rfl h hcap
  rw [csrChange_rxListEnd hc hr] at walk
  rw [exec_writeInstr_rbdlHi hm hmode]
  exact runOp_of_ok ((writeRbdlHi_starts hc hr hh).trans (hb ▸ walk))

theorem exec_xbdlHi_leads (hp : (s.ctl i).tx.txpend = none) {b : Addr}
    (hb : addrOf d (s.ctl i).classic.xbdlLo = b) (h : s.LeadsToEnd b)
    (hcap : ∀ n, s.cfg.chainCap = some n → 1 < n) :
    exec (writeInstr m 5 i d) s = .next ((s.followed b).setCtl i { s.ctl i with
      classic := { (s.ctl i).classic with xptr := s.linked b, csr := (s.ctl i).classic.csr ||| Csr.xlMask } }) := by
  have hc : (s.ctl i).mode ≠ .turbo := hmode ▸ hm
  have walk := (txListWalk i).ends_at_linked (c := (s.ctl i).withTxList b) hq rfl h hcap
  rw [csrChange_txListEnd hc hr] at walk
  rw [exec_writeInstr_xbdlHi hm hmode]
  exact runOp_of_ok ((writeXbdlHi_starts hc hr hp).trans (hb ▸ walk))

/-- A list whose first descriptor chains to itself: the instance hangs without a bound, and takes an NXM under one. -/
theorem exec_rbdlHi_selfChain (hh : handshakes s.cfg i (s.ctl i) d = false) {b : Addr}
    (hb : addrOf d (s.ctl i).classic.rbdlLo = b) (h : s.ChainAt b) (hl : s.linked b = b)
    (hw : s.cfg.writeFlagWord = false) :
    (s.cfg.chainCap = none →
        exec (writeInstr m 3 i d) s = .next (s.setCtl i (((s.ctl i).withRxList b).setHung true)))
      ∧ ∀ n, s.cfg.chainCap = some n →
        exec (writeInstr m 3 i d) s = .next (nxmClassic i (s.setCtl i ((s.ctl i).withRxList b))) := by
  have pass := (rxListWalk i).pass_self_chain (c := (s.ctl i).withRxList b) rfl hq rfl h hl hw
  have start := writeRbdlHi_starts (hmode ▸ hm) hr hh
  rw [hb] at start
  rw [exec_writeInstr_rbdlHi hm hmode]
  refine ⟨fun hc => ?_, fun n hc => ?_⟩
  · rw [classicWalk_hangs pass ((s.setCtl_cfg i _).symm ▸ hc), onCtl_setCtl] at start
    exact runOp_of_error start
  · rw [classicWalk_exceeds pass ((s.setCtl_cfg i _).symm ▸ hc)] at start
    exact runOp_of_error start

end

/-- Settles O28: the two leading clauses and the self-chain clause are the three lemmas above, at the list's base. -/
theorem chainDescriptors : Obligations.ChainDescriptors := by
  intro s i m d hm hmode hr hq
  have beyond : s.cfg.chainCap ≠ some 0 → s.cfg.chainCap ≠ some 1 → ∀ n, s.cfg.chainCap = some n → 1 < n := by
    intro h0 h1 n hn
    rw [hn] at h0 h1
    simp only [ne_eq, Option.some.injEq] at h0 h1
    omega
  refine ⟨fun noShake => ?_, fun hp => ?_⟩
  · have hh : handshakes s.cfg i (s.ctl i) d = false := by
      rw [Bool.eq_false_iff, ne_eq, handshakes_iff, hmode]
      exact noShake
    refine ⟨fun ⟨chain, ready, invalid, h0, h1⟩ => ?_, fun chain self flag => ?_⟩
    · exact exec_rbdlHi_leads hm hmode hr hq hh rfl ⟨chain, ready, invalid⟩ (beyond h0 h1)
    · exact exec_rbdlHi_selfChain hm hmode hr hq hh rfl chain self flag
  · intro b leads
    obtain ⟨chain, ready, invalid, h0, h1⟩ := leads
    exact exec_xbdlHi_leads hm hmode hr hq hp rfl ⟨chain, ready, invalid⟩ (beyond h0 h1)

end Sys2Proof.Machine
end

section
/-! What an operation does to an instance, said once: every change is one of a short list of named moves, each under the
condition it is made in, and the state an operation or a step leaves is reached by moves alone. -/

namespace Sys2Proof.Machine

/-! ### The moves -/

/-- The CSR bits the block sets of its own accord: a delivery, a completion, the end of a list, an NXM. -/
def deviceMasks : List Word := [Csr.riMask, Csr.xiMask, Csr.rlMask, Csr.xlMask, Csr.nxmMask]

/-- The list bit an operation makes valid: RL a write of RBDL_HI, XL a write of XBDL_HI (rules R25, R26). -/
def validates : Instr → List Word
  | .lWrRbdlHi _ _ | .cWrRbdlHi _ _ => [Csr.rlMask]
  | .lWrXbdlHi _ _ | .cWrXbdlHi _ _ => [Csr.xlMask]
  | _ => []

/-- Where the transmit walk stands: the ring slot in turbo mode, the list pointer in a classic mode (rules R38, R44). -/
def walkAddr (cfg : Config) (c : Ctl) : Addr :=
  if c.mode = .turbo then slotAddr cfg.layout c.turbo.txRingBase c.turbo.txIdx else c.classic.xptr

/-- The subscription after the edges of RE (rules R27, R102). -/
def subscribedAfter (old new : Word) (b : Bool) : Bool :=
  if rises Csr.RE old new then true else if falls Csr.RE old new then false else b

/-- A change of the timers: the sanity timer armed, disarmed or counted down, the system-ID countdown, its receipt (rules
R186, R207 to R209). -/
inductive TimerChange (cfg : Config) (t : Timers) : Timers → Prop
  | keep : TimerChange cfg t t
  | arm (n : Nat) (pos : 0 < n) (h : n ≤ 4 * 65535) : TimerChange cfg t { t with sanCount := n, sanArmed := true }
  | disarm : TimerChange cfg t { t with sanArmed := false }
  | count : TimerChange cfg t { t with sanCount := t.sanCount - 1, sanArmed := decide (t.sanCount - 1 ≠ 0) }
  | sysid : TimerChange cfg t
      { t with sysidCount := if t.sysidCount - 1 = 0 then cfg.sysidPeriod else t.sysidCount - 1 }
  | sent : TimerChange cfg t { t with sysidReceipt := t.sysidReceipt + 1 }

/-- A change of the Read Queue: an item inserted, the head item delivered whole, or a part of it (rules R147, R174). -/
inductive QueueChange (cfg : Config) (q : ReadQueue) : ReadQueue → Prop
  | keep : QueueChange cfg q q
  | insert (kind : ItemKind) (f : List Byte) :
      QueueChange cfg q (queueAfter cfg.readqCap q { kind := kind, bytes := normalise f, offset := 0 })
  | finish (h : Item) (rest : List Item) (e : q.readq = h :: rest) : QueueChange cfg q { readq := rest, loss := 0 }
  | advance (h : Item) (rest : List Item) (len : Nat) (e : q.readq = h :: rest) (part : segmentLast h len = false) :
      QueueChange cfg q { readq := { h with offset := h.offset + (segment h len).length } :: rest, loss := 0 }

/-- A change of an instance that leaves its mode, its message with the transport and its place in the transmit walk. -/
inductive Change (cfg : Config) (op : Instr) (c : Ctl) : Ctl → Prop
  | request (v : Bool) : Change cfg op c (c.setPending v)
  | hang : Change cfg op c (c.setHung true)
  | latch (v : Bool) : Change cfg op c (c.setTlatch v)
  | device (m : Word) (h : m ∈ deviceMasks) : Change cfg op c (c.setCsr (csrAfter c.classic.csr m 0))
  | validate (m : Word) (h : m ∈ validates op) : Change cfg op c (c.setCsr (csrAfter c.classic.csr 0 m))
  | csrWrite (d : Word) (p : Bool) (t : Timers) (hm : c.mode ≠ .turbo) (h : TimerChange cfg c.timers t) :
      Change cfg op c ((((c.setCsr (csrAfter c.classic.csr (csrSetMask d) (csrClrMask d))).setPending p).setTimers t
        ).setRxSubscribed
          (subscribedAfter c.classic.csr (csrAfter c.classic.csr (csrSetMask d) (csrClrMask d)) c.rxSubscribed))
  | rptr (a : Addr) : Change cfg op c (c.setRptr a)
  | rbdlLo (v : Word) : Change cfg op c (c.setRbdlLo v)
  | xbdlLo (v : Word) : Change cfg op c (c.setXbdlLo v)
  | ibaLo (v : Word) : Change cfg op c (c.setIbaLo v)
  | iba (a : Addr) : Change cfg op c (c.setIba a)
  | icrEn (v : Bool) : Change cfg op c (c.setIcrEn v)
  | dropBuffer : Change cfg op c (c.setTxbuf [])
  | gather (bytes : List Byte) : Change cfg op c (c.setTxbuf (keepUpTo cfg.txbufMax c.tx.txbuf bytes))
  | nxmTurbo (h : c.mode = .turbo) : Change cfg op c (nxmTurboCtl c)
  | startFailed : Change cfg op c (startFailed c)
  | queue (q : ReadQueue) (x : Stats) (h : QueueChange cfg c.queue q) : Change cfg op c ((c.setQueue q).setStats x)
  | rxIdx (k : Nat) : Change cfg op c (c.setRxIdx (k % cfg.rxRingN))
  | setup (f : List Byte) : Change cfg op c (setupCtl cfg.setupBits f c)
  | timers (t : Timers) (x : Stats) (h : TimerChange cfg c.timers t) : Change cfg op c ((c.setStats x).setTimers t)
  | selfTest (r : BitVec 3) (h : c.classic.var.getLsbD Var.RS = true) :
      Change cfg op c (c.setVar (varTested c.classic.var r))

/-- A change that operation `op` makes to instance `i`. -/
inductive Move (cfg : Config) (op : Instr) (i : Inst) (c : Ctl) : Ctl → Prop
  | change {c' : Ctl} (h : Change cfg op c c') : Move cfg op i c c'
  | xptr (a : Addr) (h : c.tx.txpend = none) : Move cfg op i c (c.setXptr a)
  | txIdx (k : Nat) (h : c.tx.txpend = none) : Move cfg op i c (c.setTxIdx (k % cfg.txRingN))
  | handOff (h : c.tx.txpend = none) :
      Move cfg op i c (c.setTxpend (some { addr := walkAddr cfg c, gen := c.tx.gen }))
  | takeBack : Move cfg op i c (c.setTxpend none)
  | initBlock (r : InitRead) (h : c.tx.txpend = none) : Move cfg op i c (initCtl cfg.layout r c)
  | started (hm : c.mode = .turbo) (h : c.tx.txpend = none) : Move cfg op i c (startedCtl c)
  | varWrite (d : Word) (h : c.mode ≠ .turbo) :
      Move cfg op i c ((c.setVar (varAfter (cfg.unit i).type c.classic.var d)).setMode
        (varMode (cfg.unit i).type c.mode (varAfter (cfg.unit i).type c.classic.var d)))
  | turboEnter (h : (cfg.unit i).type = .turbo) : Move cfg op i c (turboEnterCtl c)
  | reset : Move cfg op i c (resetCtl cfg i c)
  | powerOn : Move cfg op i c (resetCtl cfg i (powerOnCtl c))

/-! ### The model's own functions as changes -/

section

variable {cfg : Config} {op : Instr}

theorem sanityQ_range : ∀ sel : BitVec 3, 0 < sanityQ sel ∧ sanityQ sel ≤ 4 * 65535 := by decide

theorem timerChange_arm (c : Ctl) :
    TimerChange cfg c.timers { c.timers with sanCount := sanityQ c.setup.sanitySel, sanArmed := true } :=
  .arm _ (sanityQ_range _).1 (sanityQ_range _).2

/-- A sanity reload arms the timer, disarms it, or leaves it (rule R209). -/
theorem sanityReloadCtl_eq (cfg : Config) (c : Ctl) :
    ∃ t, TimerChange cfg c.timers t ∧ sanityReloadCtl c = c.setTimers t := by
  have range : c.init.timeout.toNat < 65536 := c.init.timeout.isLt
  unfold sanityReloadCtl
  split_ifs with _ ht
  · exact ⟨_, .arm _ (by omega) (by omega), rfl⟩
  · exact ⟨_, .disarm, rfl⟩
  · exact ⟨_, timerChange_arm c, rfl⟩
  · exact ⟨_, .keep, rfl⟩

theorem change_sanityReload (c : Ctl) : Change cfg op c (sanityReloadCtl c) := by
  obtain ⟨t, ht, e⟩ := sanityReloadCtl_eq cfg c
  exact e ▸ .timers t c.stats ht

theorem change_countTx (status : TxStatus) (c : Ctl) : Change cfg op c (countTx status c) := by
  cases status with
  | ok =>
    obtain ⟨t, ht, e⟩ := sanityReloadCtl_eq cfg (c.setStats (txStats .ok c.stats))
    have h : Change cfg op c ((c.setStats (txStats .ok c.stats)).setTimers t) := .timers t _ ht
    rwa [← e] at h
  | fail => exact .timers c.timers (txStats .fail c.stats) .keep

theorem change_sanityCount (c : Ctl) : Change cfg op c (sanityCountCtl c) := .timers _ c.stats .count

theorem change_sysidCount (c : Ctl) : Change cfg op c (sysidCountCtl cfg.sysidPeriod c) := .timers _ c.stats .sysid

theorem change_sysidSent (c : Ctl) : Change cfg op c (sysidSentCtl c) := .timers _ c.stats .sent

theorem change_rqInsert (kind : ItemKind) (f : List Byte) (c : Ctl) :
    Change cfg op c (rqInsertCtl cfg.readqCap kind f c) := .queue _ _ (.insert kind f)

theorem change_deliver (len : Nat) (c : Ctl) : Change cfg op c (deliverCtl len c) := by
  unfold deliverCtl
  split
  · exact .queue c.queue c.stats .keep
  next h rest e =>
    split
    · exact .queue _ _ (.finish h rest e)
    next part => exact .queue _ c.stats (.advance h rest len e (Bool.eq_false_iff.2 part))

theorem change_ack (c : Ctl) : Change cfg op c (ackCtl c) := by
  unfold ackCtl
  split
  · exact .latch false
  · exact .latch c.turbo.tlatch

/-- An instance after the edges of a CSR change, its request now `p` (rule R102). -/
def csrWritten (set clr : Word) (p : Bool) (c : Ctl) : Ctl :=
  receiverEdgeCtl c.classic.csr (csrAfter c.classic.csr set clr)
    (sanityEdgeCtl c.classic.csr (csrAfter c.classic.csr set clr) ((c.setCsr (csrAfter c.classic.csr set clr)).setPending p))

theorem sanityEdgeCtl_eq (cfg : Config) (old new : Word) (c : Ctl) :
    ∃ t, TimerChange cfg c.timers t ∧ sanityEdgeCtl old new c = c.setTimers t := by
  unfold sanityEdgeCtl
  split_ifs
  · exact ⟨_, timerChange_arm c, rfl⟩
  · exact ⟨_, .disarm, rfl⟩
  · exact ⟨_, .keep, rfl⟩

theorem receiverEdgeCtl_eq (old new : Word) (c : Ctl) :
    receiverEdgeCtl old new c = c.setRxSubscribed (subscribedAfter old new c.rxSubscribed) := by
  unfold receiverEdgeCtl subscribedAfter
  split_ifs <;> rfl

theorem change_csrWritten {c : Ctl} (hm : c.mode ≠ .turbo) (d : Word) (p : Bool) :
    Change cfg op c (csrWritten (csrSetMask d) (csrClrMask d) p c) := by
  obtain ⟨t, ht, e⟩ := sanityEdgeCtl_eq cfg c.classic.csr (csrAfter c.classic.csr (csrSetMask d) (csrClrMask d))
    ((c.setCsr (csrAfter c.classic.csr (csrSetMask d) (csrClrMask d))).setPending p)
  rw [csrWritten, receiverEdgeCtl_eq, e]
  exact .csrWrite d p t hm ht

end

/-! ### What every change leaves -/

/-- What a change leaves: the mode, the message with the transport, the place of the transmit walk, TA, and a hang. -/
structure Still (c c' : Ctl) : Prop where
  mode : c'.mode = c.mode
  txpend : c'.tx.txpend = c.tx.txpend
  gen : c'.tx.gen = c.tx.gen
  xptr : c'.classic.xptr = c.classic.xptr
  txRingBase : c'.turbo.txRingBase = c.turbo.txRingBase
  txIdx : c'.turbo.txIdx = c.turbo.txIdx
  ta : c'.turbo.srr.ta = c.turbo.srr.ta
  hung : c.hung = true → c'.hung = true

variable {cfg : Config} {op : Instr} {i : Inst} {c c' : Ctl}

theorem Change.still (h : Change cfg op c c') : Still c c' := by
  cases h with
  | hang => exact ⟨rfl, rfl, rfl, rfl, rfl, rfl, rfl, fun _ => rfl⟩
  | _ => exact ⟨rfl, rfl, rfl, rfl, rfl, rfl, rfl, id⟩

theorem Still.walkAddr (h : Still c c') (cfg : Config) : walkAddr cfg c' = walkAddr cfg c := by
  simp only [Machine.walkAddr, h.mode, h.txRingBase, h.txIdx, h.xptr]

/-! ### States reached by moves -/

/-- From `s` to `t` no configuration has changed, and each instance only by moves of `op`. -/
structure Moved (op : Instr) (s t : State) : Prop where
  cfg : t.cfg = s.cfg
  path : ∀ u, Relation.ReflTransGen (Move s.cfg op u) (s.ctl u) (t.ctl u)

theorem Moved.refl (op : Instr) (s : State) : Moved op s s := ⟨rfl, fun _ => .refl⟩

/-- A change of the state outside the configuration and the instances is no move. -/
theorem Moved.outside {s t t' : State} (h : Moved op s t) (hc : t'.cfg = t.cfg) (hu : ∀ u, t'.ctl u = t.ctl u) :
    Moved op s t' := ⟨hc.trans h.cfg, fun u => (hu u).symm ▸ h.path u⟩

theorem Moved.onCtl {s t : State} {f : Ctl → Ctl} (h : Moved op s t) (hf : Move s.cfg op i (t.ctl i) (f (t.ctl i))) :
    Moved op s (onCtl i f t) where
  cfg := (onCtl_cfg i f t).trans h.cfg
  path u := by
    by_cases hu : u = i
    · subst hu
      rw [onCtl_ctl_same]
      exact (h.path u).tail hf
    · rw [Machine.onCtl, State.setCtl_ctl_ne _ _ _ _ hu]
      exact h.path u

theorem keptOutside_moved (op : Instr) (s : State) : KeptOutside (Moved op s) where
  setCoord t n l h := h.outside rfl (t.setCoord_ctl n l)
  setFault t r h := h.outside rfl (t.setFault_ctl r)
  addRefusal t r h := h.outside rfl (t.addRefusal_ctl r)
  nextDraw t h := h.outside rfl t.nextDraw_ctl
  setYield t v h := h.outside rfl (t.setYield_ctl v)
  putByte t a b h := h.outside (t.putByte_cfg a b) (t.putByte_ctl a b)
  setConcurrent t v h := h.outside rfl (t.setConcurrent_ctl v)
  addTrace t e h := h.outside rfl (t.addTrace_ctl e)
  addEvent t e h := h.outside rfl (t.addEvent_ctl e)

/-- What every move of an instance keeps, the moves together keep. -/
theorem Moved.keeps {s t : State} {u : Inst} {Q : Ctl → Prop} (h : Moved op s t)
    (hQ : ∀ c c', Move s.cfg op u c c' → Q c → Q c') (hs : Q (s.ctl u)) : Q (t.ctl u) := by
  have along : ∀ c, Relation.ReflTransGen (Move s.cfg op u) (s.ctl u) c → Q c := fun c hc => by
    induction hc with
    | refl => exact hs
    | tail _ m ih => exact hQ _ _ m ih
  exact along _ (h.path u)

/-- A state reached by moves of `op`, with `R` of instance `i`. -/
structure At (op : Instr) (s : State) (i : Inst) (R : Ctl → Prop) (t : State) : Prop where
  moved : Moved op s t
  holds : R (t.ctl i)

/-- The instance is in mode `m`. -/
abbrev InMode (m : Mode) (c : Ctl) : Prop := c.mode = m

/-- The instance is in mode `m`, with no message at the transport. -/
abbrev Idle (m : Mode) (c : Ctl) : Prop := c.mode = m ∧ c.tx.txpend = none

/-- The instance is idle in mode `m`, and its transmit walk stands at `p`. -/
abbrev IdleAt (cfg : Config) (m : Mode) (p : Addr) (c : Ctl) : Prop := Idle m c ∧ walkAddr cfg c = p

/-! ### Pieces of a step that only make changes -/

/-- No change of the state outside the instances, and no change of instance `i`, breaks `P`, which fixes the
configuration. -/
structure Steady (cfg : Config) (op : Instr) (i : Inst) (P : State → Prop) : Prop extends KeptOutside P where
  config : ∀ s, P s → s.cfg = cfg
  change : ∀ f s, P s → Change cfg op (s.ctl i) (f (s.ctl i)) → P (onCtl i f s)

section

variable {s : State} {R R' : Ctl → Prop} {m : Mode}

theorem At.move {t : State} {f : Ctl → Ctl} (h : At op s i R t) (hf : Move s.cfg op i (t.ctl i) (f (t.ctl i)))
    (hR : R' (f (t.ctl i))) : At op s i R' (onCtl i f t) where
  moved := h.moved.onCtl hf
  holds := by rwa [onCtl_ctl_same]

theorem At.weaken {t : State} (h : At op s i R t) (hR : ∀ c, R c → R' c) : At op s i R' t := ⟨h.moved, hR _ h.holds⟩

theorem At.outside {t t' : State} (h : At op s i R t) (hm : Moved op s t') (hu : t'.ctl i = t.ctl i) :
    At op s i R t' := ⟨hm, hu.symm ▸ h.holds⟩

/-- A property of the instance that every change keeps is steady. -/
theorem steady_at (hR : ∀ c c', Change s.cfg op c c' → R c → R c') : Steady s.cfg op i (At op s i R) where
  setCoord t n l h := h.outside ((keptOutside_moved op s).setCoord t n l h.moved) (t.setCoord_ctl n l i)
  setFault t r h := h.outside ((keptOutside_moved op s).setFault t r h.moved) (t.setFault_ctl r i)
  addRefusal t r h := h.outside ((keptOutside_moved op s).addRefusal t r h.moved) (t.addRefusal_ctl r i)
  nextDraw t h := h.outside ((keptOutside_moved op s).nextDraw t h.moved) (t.nextDraw_ctl i)
  setYield t v h := h.outside ((keptOutside_moved op s).setYield t v h.moved) (t.setYield_ctl v i)
  putByte t a b h := h.outside ((keptOutside_moved op s).putByte t a b h.moved) (t.putByte_ctl a b i)
  setConcurrent t v h := h.outside ((keptOutside_moved op s).setConcurrent t v h.moved) (t.setConcurrent_ctl v i)
  addTrace t e h := h.outside ((keptOutside_moved op s).addTrace t e h.moved) (t.addTrace_ctl e i)
  addEvent t e h := h.outside ((keptOutside_moved op s).addEvent t e h.moved) (t.addEvent_ctl e i)
  config _ h := h.moved.cfg
  change _ _ h hf := h.move (.change hf) (hR _ _ hf h.holds)

theorem steady_inMode : Steady s.cfg op i (At op s i (InMode m)) := steady_at fun _ _ h hc => h.still.mode.trans hc

theorem steady_idle : Steady s.cfg op i (At op s i (Idle m)) :=
  steady_at fun _ _ h hc => ⟨h.still.mode.trans hc.1, h.still.txpend.trans hc.2⟩

theorem steady_idleAt {p : Addr} : Steady s.cfg op i (At op s i (IdleAt s.cfg m p)) :=
  steady_at fun _ _ h hc =>
    ⟨⟨h.still.mode.trans hc.1.1, h.still.txpend.trans hc.1.2⟩, (h.still.walkAddr s.cfg).trans hc.2⟩

end

variable {P E : State → Prop} {α β : Type} {Q : α → State → Prop}

/-- What follows a read of the instance's state may use what was read. -/
theorem Piece.getCtl {f : Ctl → Op α} (h : ∀ c, Piece (fun s => P s ∧ s.ctl i = c) (f c) Q E) :
    Piece P (getCtl i >>= f) Q E := fun s hs => by
  rw [op_bind_ok (getCtl_apply i s)]
  exact h (s.ctl i) s ⟨hs, rfl⟩

/-- What follows a read of the configuration, where it is known. -/
theorem Piece.getCfg {f : Config → Op α} (hc : ∀ s, P s → s.cfg = cfg) (h : Piece P (f cfg) Q E) :
    Piece P (getCfg >>= f) Q E := fun s hs => by
  rw [op_bind_ok (getCfg_apply s), hc s hs]
  exact h s hs

theorem Piece.changeCtl {P' : State → Prop} {f : Ctl → Ctl} (h : ∀ s, P s → P' (onCtl i f s)) :
    Piece P (changeCtl i f) (fun _ => P') E := Piece.change h

/-- A kept property holds at the end of a weaker piece. -/
theorem Keeps.toPiece {m : Op α} (h : Keeps P m) (he : ∀ s, P s → E s) : Piece P m (fun _ => P) E :=
  h.weaken (fun _ h => h) (fun _ _ h => h) he

/-- The access that fails with `ctx` is made in the mode that NXM or NXM_T is for (rules R188, R189). -/
def Fits (i : Inst) (P : State → Prop) (ctx : NxmCtx) : Prop :=
  ctx = .initBlock ∨ ctx = .ring → ∀ s, P s → (s.ctl i).mode = .turbo

theorem Fits.classic {ctx : NxmCtx} (h : (ctx == .initBlock || ctx == .ring) = false) : Fits i P ctx := by
  intro hc
  rcases hc with rfl | rfl <;> cases h

namespace Steady

variable {ctx : NxmCtx}

theorem changeCtl (hP : Steady cfg op i P) {f : Ctl → Ctl} (h : ∀ s, P s → Change cfg op (s.ctl i) (f (s.ctl i))) :
    Keeps P (changeCtl i f) := Keeps.change fun s hs => hP.change f s hs (h s hs)

theorem getCfg (hP : Steady cfg op i P) {f : Config → Op α} (h : Keeps P (f cfg)) : Keeps P (getCfg >>= f) :=
  Piece.getCfg hP.config h

/-! #### Requests and errors -/

theorem setInt (hP : Steady cfg op i P) (s : State) (h : P s) : P (setInt i s) := by
  rcases setInt_spec i s with ⟨_, e⟩ | ⟨_, e⟩ <;> rw [e]
  · exact h
  · exact hP.setCoord _ _ _ (hP.change _ _ h (.request _))

theorem clrInt (hP : Steady cfg op i P) (s : State) (h : P s) : P (clrInt i s) := by
  rcases clrInt_spec i s with ⟨_, e⟩ | ⟨_, e⟩ <;> rw [e]
  · exact h
  · exact hP.setCoord _ _ _ (hP.change _ _ h (.request _))

theorem intTurbo (hP : Steady cfg op i P) (s : State) (h : P s) : P (intTurbo i s) := by
  rcases intTurbo_cases i s with ⟨_, e⟩ | ⟨_, e⟩ <;> rw [e]
  · exact hP.setInt s h
  · exact hP.clrInt s h

theorem latchTurbo (hP : Steady cfg op i P) (s : State) (h : P s) : P (latchTurbo i s) :=
  hP.intTurbo _ (hP.change _ _ h (.latch true))

theorem csrChange (hP : Steady cfg op i P) {set clr : Word}
    (hc : ∀ c, Change cfg op c (c.setCsr (csrAfter c.classic.csr set clr))) (s : State) (h : P s) :
    P (csrChange i set clr s) := by
  have changed := hP.change (·.setCsr (csrAfter (s.ctl i).classic.csr set clr)) s h (hc _)
  unfold Machine.csrChange
  rcases intClassic_cases i (s.ctl i).classic.csr (csrAfter (s.ctl i).classic.csr set clr)
    (onCtl i (·.setCsr (csrAfter (s.ctl i).classic.csr set clr)) s) with ⟨_, e⟩ | ⟨_, _, e⟩ | ⟨_, _, e⟩ <;>
    simp only [e]
  · exact hP.setInt _ changed
  · exact hP.clrInt _ changed
  · exact changed

theorem device (hP : Steady cfg op i P) {m : Word} (hm : m ∈ deviceMasks) : Keeps P (csrDevice i m 0) :=
  Keeps.change (hP.csrChange fun _ => .device m hm)

theorem validate (hP : Steady cfg op i P) {m : Word} (hm : m ∈ validates op) : Keeps P (csrDevice i 0 m) :=
  Keeps.change (hP.csrChange fun _ => .validate m hm)

theorem nxmClassic (hP : Steady cfg op i P) (s : State) (h : P s) : P (nxmClassic i s) :=
  hP.csrChange (fun _ => .device _ (by decide)) _ (hP.change _ _ h .dropBuffer)

theorem nxmTurbo (hP : Steady cfg op i P) {s : State} (hm : (s.ctl i).mode = .turbo) (h : P s) : P (nxmTurbo i s) :=
  hP.latchTurbo _ (hP.change _ _ h (.nxmTurbo hm))

theorem nxmState (hP : Steady cfg op i P) (hx : Fits i P ctx) (s : State) (h : P s) : P (nxmState i ctx s) := by
  cases ctx with
  | initBlock =>
    have failed : P (onCtl i startFailed s) := hP.change _ _ h .startFailed
    exact hP.nxmTurbo (hx (.inl rfl) _ failed) failed
  | ring => exact hP.nxmTurbo (hx (.inr rfl) s h) h
  | fetch | rxData | rxStatus | txData | txStatus | chainCap => exact hP.nxmClassic s h

/-! #### Guest-memory accesses -/

theorem readByte (hP : Steady cfg op i P) (hx : Fits i P ctx) {a : Addr} : Keeps P (readByte i ctx a) := by
  intro s hs
  rcases readByte_cases i ctx a s with ⟨_, e⟩ | ⟨_, e⟩ <;> rw [e]
  · exact hP.observe s hs
  · exact hP.nxmState hx _ (hP.observe s hs)

theorem readWord (hP : Steady cfg op i P) (hx : Fits i P ctx) {a : Addr} : Keeps P (readWord i ctx a) := by
  intro s hs
  rcases readWord_cases i ctx a s with ⟨_, e⟩ | ⟨_, e⟩ | ⟨_, _, e⟩ <;> rw [e]
  · exact hP.addRefusal _ _ hs
  · exact hP.observe s hs
  · exact hP.nxmState hx _ (hP.observe s hs)

theorem writeByte (hP : Steady cfg op i P) (hx : Fits i P ctx) {a : Addr} {b : Byte} :
    Keeps P (writeByte i ctx a b) := by
  intro s hs
  rcases writeByte_cases i ctx a b s with ⟨_, e⟩ | ⟨_, e⟩ <;> rw [e]
  · exact hP.addTrace _ _ (hP.putByte _ _ _ (hP.observe s hs))
  · exact hP.nxmState hx _ (hP.observe s hs)

theorem writeWord (hP : Steady cfg op i P) (hx : Fits i P ctx) {a : Addr} {v : Word} :
    Keeps P (writeWord i ctx a v) := by
  intro s hs
  rcases writeWord_cases i ctx a v s with ⟨_, e⟩ | ⟨_, e⟩ | ⟨_, _, e⟩ <;> rw [e]
  · exact hP.addRefusal _ _ hs
  · exact hP.addTrace _ _ (hP.putWord _ _ _ (hP.observe s hs))
  · exact hP.nxmState hx _ (hP.observe s hs)

theorem readBytes (hP : Steady cfg op i P) (hx : Fits i P ctx) (n : Nat) (a : Addr) :
    Keeps P (readBytes i ctx n a) := by
  induction n generalizing a with
  | zero => exact Keeps.pure
  | succ n ih => exact (hP.readByte hx).bind fun _ => (ih _).bind fun _ => Keeps.pure

theorem writeBytes (hP : Steady cfg op i P) (hx : Fits i P ctx) (a : Addr) (bs : List Byte) :
    Keeps P (writeBytes i ctx a bs) := by
  induction bs generalizing a with
  | nil => exact Keeps.pure
  | cons b rest ih => exact (hP.writeByte hx).bind fun _ => ih _

theorem statusPair (hP : Steady cfg op i P) (hx : Fits i P ctx) {p : Addr} {sw1 sw2 : Word} :
    Keeps P (statusPair i ctx p sw1 sw2) :=
  (hP.writeWord hx).bind fun _ => hP.barrier.bind fun _ => hP.writeWord hx

/-! #### Walks -/

theorem freeWalk (hP : Steady cfg op i P) {pass : α → Op (Pass α)} (h : ∀ a, Keeps P (pass a)) (a : α) :
    Keeps P (freeWalk i pass a) :=
  freeWalk_piece (I := fun _ => P) (Q := fun _ => P) (fun a => (h a).passPost)
    (fun _ s hs => hP.change _ s hs .hang) a

theorem classicWalk (hP : Steady cfg op i P) {pass : Unit → Op (Pass Unit)} (h : Keeps P (pass ())) :
    Keeps P (classicWalk i pass) :=
  classicWalk_piece h.passPost (fun s hs => hP.change _ s hs .hang) (hP.nxmState (Fits.classic rfl))

/-! #### The Read Queue, the timers and the setup processor -/

theorem rqInsert (hP : Steady cfg op i P) {kind : ItemKind} {f : List Byte} : Keeps P (rqInsert i kind f) :=
  hP.getCfg (hP.changeCtl fun _ _ => change_rqInsert kind f _)

theorem sanityReload (hP : Steady cfg op i P) : Keeps P (sanityReload i) := hP.changeCtl fun _ _ => change_sanityReload _

theorem sysidTick (hP : Steady cfg op i P) : Keeps P (sysidTick i) :=
  Keeps.ask.bind fun _ => hP.getCfg <| (hP.changeCtl fun _ _ => change_sysidCount _).bind fun _ =>
    Keeps.ite (hP.emit.bind fun _ => hP.changeCtl fun _ _ => change_sysidSent _) Keeps.pure

theorem setupProcess (hP : Steady cfg op i P) {f : List Byte} : Keeps P (setupProcess i f) :=
  hP.getCfg <| (hP.changeCtl fun _ _ => .setup f).bind fun _ => Keeps.ask.bind fun _ => hP.emit.bind fun _ =>
    hP.sanityReload

theorem readInitBlock (hP : Steady cfg op i P) (hx : Fits i P .initBlock) {l : TurboLayout} {p : Addr} :
    Keeps P (readInitBlock i l p) := by
  have base : ∀ {pos : Nat} {lo hi : Addr}, Keeps P (readRingBase i pos lo hi) :=
    (hP.readWord hx).bind fun _ => (hP.readWord hx).bind fun _ => Keeps.pure
  exact (hP.readWord hx).bind fun _ => (hP.readBytes hx _ _).bind fun _ => (hP.readBytes hx _ _).bind fun _ =>
    (hP.readWord hx).bind fun _ => (hP.readWord hx).bind fun _ => (hP.readWord hx).bind fun _ =>
      (hP.readBytes hx _ _).bind fun _ => base.bind fun _ => base.bind fun _ => Keeps.pure

/-! #### The receive walks -/

theorem fetchDesc (hP : Steady cfg op i P) {p : Addr} : Keeps P (fetchDesc i p) := by
  have word : ∀ {a : Addr}, Keeps P (Machine.readWord i .fetch a) := hP.readWord (Fits.classic rfl)
  exact Keeps.ask.bind fun _ => Keeps.when (hP.writeWord (Fits.classic rfl)) fun _ => word.bind fun _ =>
    word.bind fun _ => word.bind fun _ => word.bind fun _ => word.bind fun _ => word.bind fun _ => Keeps.pure

theorem rxDeliver (hP : Steady cfg op i P) {p : Addr} {d : Desc} {q : Item} {loss : Nat} :
    Keeps P (rxDeliver i p d q loss) :=
  (hP.writeBytes (Fits.classic rfl) _ _).bind fun _ => (hP.statusPair (Fits.classic rfl)).bind fun _ =>
    (hP.changeCtl fun _ _ => change_deliver _ _).bind fun _ => (hP.device (by decide)).bind fun _ =>
      hP.changeCtl fun _ _ => .rptr _

theorem rxPass (hP : Steady cfg op i P) (a : Unit) : Keeps P (rxPass i a) := by
  refine Keeps.ask.bind fun c => hP.fetchDesc.bind fun d =>
    Keeps.ite ((hP.device (by decide)).bind fun _ => Keeps.pure) <|
      Keeps.ite ((hP.changeCtl fun _ _ => .rptr _).bind fun _ => Keeps.pure) ?_
  cases c.queue.readq with
  | nil => exact Keeps.pure
  | cons q rest => exact hP.rxDeliver.bind fun _ => Keeps.pure

theorem rxDispatch (hP : Steady cfg op i P) : Keeps P (rxDispatch i) :=
  Keeps.ask.bind fun _ => Keeps.ite Keeps.pure (hP.classicWalk (hP.rxPass ()))

theorem slotDone (hP : Steady cfg op i P) (hx : Fits i P .ring) {base : Addr} {n idx : Nat} {w : Word} :
    Keeps P (slotDone i base n idx w) :=
  Keeps.ask.bind fun _ => (hP.writeWord hx).bind fun _ => (hP.readWord hx).bind fun _ => hP.barrier.bind fun _ =>
    hP.writeWord hx

theorem batchDone (hP : Steady cfg op i P) {n : Nat} : Keeps P (batchDone i n) :=
  Keeps.ite (Keeps.change hP.latchTurbo) Keeps.pure

theorem ringRxFill (hP : Steady cfg op i P) (hx : Fits i P .ring) {p : Addr} {c : Ctl} {q : Item} :
    Keeps P (ringRxFill i p c q) :=
  hP.getCfg <| (hP.readWord hx).bind fun _ => (hP.readWord hx).bind fun _ => (hP.readWord hx).bind fun _ =>
    (hP.writeBytes hx _ _).bind fun _ => (hP.writeWord hx).bind fun _ => (hP.slotDone hx).bind fun _ =>
      (hP.changeCtl fun _ _ => change_deliver _ _).bind fun _ => hP.changeCtl fun _ _ => .rxIdx _

theorem ringRxPass (hP : Steady cfg op i P) (hx : Fits i P .ring) (n : Nat) : Keeps P (ringRxPass i n) := by
  refine Keeps.ask.bind fun c => Keeps.ask.bind fun cfg => ?_
  cases c.queue.readq with
  | nil => exact Keeps.pure
  | cons q rest =>
    exact (hP.readWord hx).bind fun _ => Keeps.ite Keeps.pure ((hP.ringRxFill hx).bind fun _ => Keeps.pure)

theorem ringRx (hP : Steady cfg op i P) (hx : Fits i P .ring) : Keeps P (ringRx i) :=
  Keeps.ask.bind fun _ =>
    Keeps.ite ((hP.freeWalk (hP.ringRxPass hx) 0).bind fun _ => hP.batchDone) Keeps.pure

/-! #### Filling the transmit buffer -/

theorem txGather (hP : Steady cfg op i P) (hx : Fits i P ctx) {n : Nat} {a : Addr} : Keeps P (txGather i ctx n a) :=
  hP.getCfg <| (hP.readBytes hx _ _).bind fun _ => hP.changeCtl fun _ _ => .gather _

theorem txStatus (hP : Steady cfg op i P) {status : TxStatus} : Keeps P (txStatus status) := by
  refine Keeps.ask.bind fun _ => ?_
  cases status with
  | ok => exact Keeps.pure
  | fail => exact hP.draw.bind fun _ => Keeps.pure

end Steady

end Sys2Proof.Machine
end

section
/-! Every operation, and so every step, changes an instance by moves alone: the transmit walks make theirs idle, the turbo
pieces in turbo mode, the classic register writes in a classic mode. -/

namespace Sys2Proof.Machine

variable {cfg : Config} {op : Instr} {i : Inst} {s : State} {m : Mode} {p : Addr} {α β : Type}
  {P P' E : State → Prop} {Q : α → State → Prop}

theorem At.inMode {t : State} (h : At op s i (Idle m) t) : At op s i (InMode m) t := h.weaken fun _ hc => hc.1

theorem At.idle {t : State} (h : At op s i (IdleAt s.cfg m p) t) : At op s i (Idle m) t := h.weaken fun _ hc => hc.1

theorem At.config {R : Ctl → Prop} {t : State} (h : At op s i R t) : t.cfg = s.cfg := h.moved.cfg

theorem fits_inMode {ctx : NxmCtx} : Fits i (At op s i (InMode .turbo)) ctx := fun _ _ h => h.holds

theorem fits_idle {ctx : NxmCtx} : Fits i (At op s i (Idle .turbo)) ctx := fun _ _ h => h.holds.1

theorem fits_idleAt {ctx : NxmCtx} : Fits i (At op s i (IdleAt s.cfg .turbo p)) ctx := fun _ _ h => h.holds.1.1

theorem steady_moved : Steady s.cfg op i (Moved op s) where
  toKeptOutside := keptOutside_moved op s
  config _ h := h.cfg
  change _ _ h hf := h.onCtl (.change hf)

theorem Piece.stopWith {r : Stop} (h : ∀ s, P s → E s) : Piece P (stopWith r : Op α) Q E := h

/-- The `do` block `if c then m` followed by `f`, where `f` runs in `P'`. -/
theorem Piece.when {c : Prop} [Decidable c] {m : Op Unit} {f : Unit → Op α} (hm : c → Piece P m (fun _ => P') E)
    (hn : ¬c → ∀ s, P s → P' s) (hf : ∀ a, Piece P' (f a) Q E) : Piece P (if c then m >>= f else f ()) Q E :=
  Piece.branch (fun hc => (hm hc).bind hf) fun hc => (hf ()).weaken (hn hc) (fun _ _ h => h) fun _ h => h

/-- A piece that keeps the mode leaves a state reached by moves. -/
theorem Keeps.moved {R : Ctl → Prop} {m : Op α} (h : Keeps (At op s i R) m) :
    Piece (At op s i R) m (fun _ => Moved op s) (Moved op s) :=
  h.weaken (fun _ h => h) (fun _ _ h => h.moved) fun _ h => h.moved

/-! ### The full reset -/

theorem Moved.reset {t : State} (h : Moved op s t) : Moved op s (resetState i t) :=
  (keptOutside_moved op s).addEvent _ _ (steady_moved.clrInt _ (h.onCtl (h.cfg ▸ .reset)))

theorem keeps_resetFull : Keeps (Moved op s) (resetFull i) := Keeps.change fun _ h => h.reset

/-- Power-on clears the generation and resets at once: the two are one move. -/
theorem keeps_powerOnInst : Keeps (Moved op s) (powerOnInst i) := by
  intro t h
  have whole : resetState i (onCtl i powerOnCtl t)
      = (clrInt i (onCtl i (fun c => resetCtl t.cfg i (powerOnCtl c)) t)).addEvent (.filter i [] false false) := by
    rw [resetState, onCtl_onCtl, onCtl_cfg]
  show Moved op s (resetState i (onCtl i powerOnCtl t))
  rw [whole]
  exact (keptOutside_moved op s).addEvent _ _ (steady_moved.clrInt _ (h.onCtl (h.cfg ▸ .powerOn)))

/-! ### The transmit walk of the classic lists -/

theorem keeps_setXptr {a : Addr} : Keeps (At op s i (Idle m)) (changeCtl i (·.setXptr a)) :=
  Keeps.change fun _ h => h.move (.xptr a h.holds.2) h.holds

theorem keeps_txComplete {status : TxStatus} : Keeps (At op s i (Idle m)) (txComplete i status) :=
  Keeps.ask.bind fun _ => steady_idle.txStatus.bind fun _ => (steady_idle.statusPair (Fits.classic rfl)).bind fun _ =>
    (steady_idle.changeCtl fun _ _ => change_countTx status _).bind fun _ => (steady_idle.device (by decide)).bind fun _ =>
      keeps_setXptr.bind fun _ => steady_idle.rxDispatch

/-- The message goes to the transport from where the walk stands. -/
theorem handOff_piece {f : List Byte} :
    Piece (At op s i (IdleAt s.cfg m p)) (handOff i p f) (fun _ => At op s i (InMode m)) (At op s i (InMode m)) := by
  have weak : ∀ t, At op s i (IdleAt s.cfg m p) t → At op s i (InMode m) t := fun _ h => h.idle.inMode
  refine (Keeps.ask.toPiece weak).bind fun _ => (steady_idleAt.emit.toPiece weak).bind fun _ => Piece.changeCtl fun t h => ?_
  obtain ⟨⟨mode, idle⟩, rfl⟩ := h.holds
  exact h.move (.handOff idle) mode

theorem txEom_piece (hm : m ≠ .turbo) {d : Desc} :
    Piece (At op s i (Idle m)) (txEom i d) (fun _ => At op s i (Idle m)) (At op s i (InMode m)) := by
  refine Piece.getCtl fun c => Piece.getCfg (fun _ h => h.1.config) <|
    Piece.bind (Q := fun _ => At op s i (IdleAt s.cfg m c.classic.xptr)) (Piece.changeCtl ?_) fun _ => ?_
  · rintro t ⟨h, rfl⟩
    exact h.move (.change .dropBuffer) ⟨h.holds, if_neg (h.holds.1 ▸ hm)⟩
  · have goesOn : ∀ {n : Op Unit}, Keeps (At op s i (Idle m)) n → Piece (At op s i (IdleAt s.cfg m c.classic.xptr)) n
        (fun _ => At op s i (Idle m)) (At op s i (InMode m)) :=
      fun hn => hn.weaken (fun _ h => h.idle) (fun _ _ h => h) fun _ h => h.inMode
    exact Piece.branch
      (fun _ => goesOn (steady_idle.setupProcess.bind fun _ => steady_idle.rqInsert.bind fun _ => keeps_txComplete))
      fun _ => Piece.branch (fun _ => goesOn (Keeps.when steady_idle.rqInsert fun _ => keeps_txComplete))
      fun _ => Piece.branch (fun _ => goesOn keeps_txComplete)
      fun _ => handOff_piece.bind fun _ => Piece.stopWith fun _ h => h

theorem keeps_txSegmentDone {a : Addr} : Keeps (At op s i (Idle m)) (txSegmentDone i a) :=
  (steady_idle.statusPair (Fits.classic rfl)).bind fun _ => keeps_setXptr

theorem txPass_piece (hm : m ≠ .turbo) : Piece (At op s i (Idle m)) (txPass i ())
    (PassPost (fun _ => At op s i (Idle m)) fun _ => At op s i (InMode m)) (At op s i (InMode m)) := by
  have weak : ∀ t, At op s i (Idle m) t → At op s i (InMode m) t := fun _ => At.inMode
  refine (Keeps.ask.toPiece weak).bind fun _ => (steady_idle.fetchDesc.toPiece weak).bind fun _ =>
    Piece.branch (fun _ => ?_) fun _ => Piece.branch (fun _ => ?_) fun _ => ?_
  · exact ((steady_idle.device (by decide)).toPiece weak).bind fun _ => Piece.pure weak
  · exact (keeps_setXptr.toPiece weak).bind fun _ => Piece.pure fun _ h => h
  · exact ((steady_idle.txGather (Fits.classic rfl)).toPiece weak).bind fun _ =>
      Piece.branch (fun _ => (txEom_piece hm).bind fun _ => Piece.pure fun _ h => h) fun _ =>
        (keeps_txSegmentDone.toPiece weak).bind fun _ => Piece.pure fun _ h => h

theorem keeps_txDispatch (hm : m ≠ .turbo) : Keeps (At op s i (InMode m)) (txDispatch i) := by
  refine Piece.getCtl fun c => Piece.branch (fun _ => Piece.pure fun _ h => h.1) fun hn => ?_
  have idle : c.tx.txpend = none := by
    cases h : c.tx.txpend with
    | none => rfl
    | some q => exact absurd (by simp [h]) hn
  refine (classicWalk_piece (txPass_piece hm) (fun t h => ?_) (fun t h => ?_)).weaken ?_ (fun _ _ h => h) fun _ h => h
  · exact (steady_idle.change _ t h .hang).inMode
  · exact (steady_idle.nxmState (Fits.classic rfl) t h).inMode
  · rintro t ⟨h, rfl⟩
    exact ⟨h.moved, h.holds, idle⟩

/-! ### The transmit ring -/

theorem keeps_ringTxDone {failed : Bool} : Keeps (At op s i (Idle .turbo)) (ringTxDone i failed) :=
  Keeps.ask.bind fun _ => steady_idle.getCfg <| (steady_idle.slotDone fits_idle).bind fun _ =>
    Keeps.change fun _ h => h.move (.txIdx _ h.holds.2) h.holds

theorem ringTxPacket_piece {n : Nat} : Piece (At op s i (IdleAt s.cfg .turbo p)) (ringTxPacket i p n)
    (fun _ => At op s i (Idle .turbo)) (At op s i (InMode .turbo)) := by
  have weak : ∀ t, At op s i (IdleAt s.cfg .turbo p) t → At op s i (InMode .turbo) t := fun _ h => h.idle.inMode
  refine (Keeps.ask.toPiece weak).bind fun _ => (Keeps.ask.toPiece weak).bind fun _ =>
    ((steady_idleAt.changeCtl fun _ _ => .dropBuffer).toPiece weak).bind fun _ =>
      Piece.branch (fun _ => ?_) fun _ => ?_
  · have failed : Keeps (At op s i (Idle .turbo)) (ringTxDone i true >>= fun _ => changeCtl i (countTx .fail)) :=
      keeps_ringTxDone.bind fun _ => steady_idle.changeCtl fun _ _ => change_countTx .fail _
    exact failed.weaken (fun _ h => h.idle) (fun _ _ h => h) fun _ h => h.inMode
  · exact handOff_piece.bind fun _ => Piece.bind steady_inMode.batchDone fun _ => Piece.stopWith fun _ h => h

theorem ringTxPass_piece (n : Nat) : Piece (At op s i (Idle .turbo)) (ringTxPass i n)
    (PassPost (fun _ => At op s i (Idle .turbo)) fun _ => At op s i (InMode .turbo)) (At op s i (InMode .turbo)) := by
  refine Piece.getCtl fun c => Piece.getCfg (fun _ h => h.1.config) ?_
  refine Piece.weaken (P := At op s i (IdleAt s.cfg .turbo (slotAddr s.cfg.layout c.turbo.txRingBase c.turbo.txIdx)))
    ?_ ?_ (fun _ _ h => h) fun _ h => h
  · have weak : ∀ t, At op s i (IdleAt s.cfg .turbo (slotAddr s.cfg.layout c.turbo.txRingBase c.turbo.txIdx)) t →
        At op s i (InMode .turbo) t := fun _ h => h.idle.inMode
    have read : ∀ {a : Addr}, Piece (At op s i (IdleAt s.cfg .turbo _)) (readWord i .ring a)
        (fun _ => At op s i (IdleAt s.cfg .turbo _)) (At op s i (InMode .turbo)) :=
      (steady_idleAt.readWord fits_idleAt).toPiece weak
    refine read.bind fun _ => Piece.branch (fun _ => Piece.pure weak) fun _ => read.bind fun _ => read.bind fun _ =>
      read.bind fun _ => Piece.when (fun _ => (steady_idleAt.changeCtl fun _ _ => .dropBuffer).toPiece weak)
        (fun _ _ h => h) fun _ => ((steady_idleAt.txGather fits_idleAt).toPiece weak).bind fun _ =>
          Piece.branch (fun _ => ringTxPacket_piece.bind fun _ => Piece.pure fun _ h => h) fun _ => ?_
    exact Piece.bind (keeps_ringTxDone.weaken (fun _ h => h.idle) (fun _ _ h => h) fun _ h => h.inMode) fun _ =>
      Piece.pure fun _ h => h
  · rintro t ⟨h, rfl⟩
    exact ⟨h.moved, h.holds, if_pos h.holds.1⟩

theorem keeps_ringTx {n : Nat} : Keeps (At op s i (InMode .turbo)) (ringTx i n) := by
  refine Piece.getCtl fun c => Piece.branch (fun hc => ?_) fun _ => Piece.pure fun _ h => h.1
  have idle : c.tx.txpend = none := by
    simp only [Bool.and_eq_true, Bool.not_eq_true', Option.isSome_eq_false_iff, Option.isNone_iff_eq_none] at hc
    exact hc.2
  have walk := freeWalk_piece (i := i) (ringTxPass_piece (op := op) (s := s) (i := i))
    (fun _ t h => (steady_idle.change _ t h .hang).inMode) n
  refine Piece.bind (walk.weaken ?_ (fun _ _ h => h) fun _ h => h) fun _ => steady_inMode.batchDone
  rintro t ⟨h, rfl⟩
  exact ⟨h.moved, h.holds, idle⟩

/-! ### START and the turbo completion -/

theorem keeps_initBlockLoad : Keeps (At op s i (Idle .turbo)) (initBlockLoad i) :=
  steady_idle.getCfg <| Keeps.ask.bind fun _ => (steady_idle.readInitBlock fits_idle).bind fun r =>
    (Keeps.change fun _ h => h.move (.initBlock r h.holds.2) h.holds).bind fun _ => steady_idle.emit

theorem keeps_turboStart : Keeps (At op s i (InMode .turbo)) (turboStart i) := by
  have start : Keeps (At op s i (Idle .turbo)) (do
      initBlockLoad i
      changeCtl i startedCtl
      change (latchTurbo i)
      ringRx i) :=
    keeps_initBlockLoad.bind fun _ =>
      (Keeps.change fun _ h => h.move (.started h.holds.1 h.holds.2) h.holds).bind fun _ =>
        (Keeps.change steady_idle.latchTurbo).bind fun _ => steady_idle.ringRx fits_idle
  refine Piece.getCtl fun c => Piece.when (P' := At op s i (Idle .turbo))
    (fun _ t h => steady_inMode.setFault t _ h.1) (fun hn => ?_) fun _ =>
      start.weaken (fun _ h => h) (fun _ _ h => h.inMode) fun _ h => h.inMode
  rintro t ⟨h, rfl⟩
  exact ⟨h.moved, h.holds, by simpa using hn⟩

theorem turboTxComplete_piece {status : TxStatus} : Piece (At op s i (Idle .turbo)) (turboTxComplete i status)
    (fun _ => At op s i (InMode .turbo)) (At op s i (InMode .turbo)) := by
  have weak : ∀ t, At op s i (Idle .turbo) t → At op s i (InMode .turbo) t := fun _ => At.inMode
  refine (Keeps.ask.toPiece weak).bind fun _ => Piece.getCfg (fun _ h => h.config) <|
    ((steady_idle.slotDone fits_idle).toPiece weak).bind fun _ =>
    ((steady_idle.changeCtl fun _ _ => change_countTx status _).toPiece weak).bind fun _ =>
    Piece.bind (Q := fun _ => At op s i (Idle .turbo))
      (Piece.changeCtl fun _ h => h.move (.txIdx _ h.holds.2) h.holds) fun _ =>
    Piece.bind (Q := fun _ => At op s i (InMode .turbo)) (Piece.changeCtl fun _ h => h.move .takeBack h.holds.1)
      fun _ => keeps_ringTx

/-! ### Register writes -/

theorem intClassic_eq (i : Inst) (old new : Word) (s : State) :
    ∃ p n l, intClassic i old new s = (onCtl i (·.setPending p) s).setCoord n l := by
  have same : s = (onCtl i (·.setPending (s.ctl i).pending) s).setCoord s.count s.line := by cases i <;> rfl
  rcases intClassic_cases i old new s with ⟨_, e⟩ | ⟨_, _, e⟩ | ⟨_, _, e⟩ <;> rw [e]
  · rcases setInt_spec i s with ⟨_, e⟩ | ⟨_, e⟩ <;> rw [e]
    · exact ⟨_, _, _, same⟩
    · exact ⟨_, _, _, rfl⟩
  · rcases clrInt_spec i s with ⟨_, e⟩ | ⟨_, e⟩ <;> rw [e]
    · exact ⟨_, _, _, same⟩
    · exact ⟨_, _, _, rfl⟩
  · exact ⟨_, _, _, same⟩

/-- The edges of a CSR write are one change of the instance, and the coordinator's. -/
theorem csrEdges_eq (i : Inst) (set clr : Word) (s : State) :
    ∃ p n l, csrEdges i set clr s = (onCtl i (csrWritten set clr p) s).setCoord n l := by
  obtain ⟨p, n, l, e⟩ := intClassic_eq i (s.ctl i).classic.csr (csrAfter (s.ctl i).classic.csr set clr)
    (onCtl i (·.setCsr (csrAfter (s.ctl i).classic.csr set clr)) s)
  refine ⟨p, n, l, ?_⟩
  rw [csrEdges, csrChange, e]
  cases i <;> rfl

theorem keeps_csrEdges (hm : m ≠ .turbo) {d : Word} :
    Keeps (At op s i (InMode m)) (change (csrEdges i (csrSetMask d) (csrClrMask d))) := Keeps.change fun t h => by
  obtain ⟨p, n, l, e⟩ := csrEdges_eq i (csrSetMask d) (csrClrMask d) t
  rw [e]
  exact steady_inMode.setCoord _ _ _ (steady_inMode.change _ t h (change_csrWritten (h.holds ▸ hm) d p))

/-- A CSR write: its edges, the receive walk it may start, and the reset it may be (rule R102). -/
theorem writeCsr_piece (hm : m ≠ .turbo) {d : Word} :
    Piece (At op s i (InMode m)) (writeCsr i d) (fun _ => Moved op s) (Moved op s) := by
  have inMoved : ∀ t, At op s i (InMode m) t → Moved op s t := fun _ h => h.moved
  exact (Keeps.ask.toPiece inMoved).bind fun _ => ((keeps_csrEdges hm).toPiece inMoved).bind fun _ =>
    Piece.when (fun _ => steady_inMode.rxDispatch.moved) (fun _ => inMoved) fun _ =>
      Keeps.ite keeps_resetFull Keeps.pure

theorem writeVar_piece (hm : m ≠ .turbo) {d : Word} :
    Piece (At op s i (InMode m)) (writeVar i d) (fun _ => Moved op s) (Moved op s) :=
  Piece.getCfg (fun _ h => h.config) <| Piece.changeCtl fun _ h => h.moved.onCtl (.varWrite d (h.holds ▸ hm))

/-- A write of RBDL_HI enters turbo mode, for a turbo type only, or starts the receive walk (rule R109). -/
theorem writeRbdlHi_piece {d : Word} (hv : Csr.rlMask ∈ validates op) :
    Piece (At op s i (InMode m)) (writeRbdlHi i d) (fun _ => Moved op s) (Moved op s) := by
  refine Piece.getCtl fun c => Piece.getCfg (fun _ h => h.1.config) <| Piece.branch (fun hh => ?_) fun _ => ?_
  · have isTurbo : (s.cfg.unit i).type = .turbo := (handshakes_iff.1 hh).1
    exact Piece.change fun t h => steady_moved.clrInt _ (h.1.moved.onCtl (.turboEnter isTurbo))
  · have starts : Keeps (At op s i (InMode m)) (do
        changeCtl i (·.setRptr (addrOf d c.classic.rbdlLo))
        csrDevice i 0 Csr.rlMask
        rxDispatch i) :=
      (steady_inMode.changeCtl fun _ _ => .rptr _).bind fun _ => (steady_inMode.validate hv).bind fun _ =>
        steady_inMode.rxDispatch
    exact starts.moved.weaken (fun _ h => h.1) (fun _ _ h => h) fun _ h => h

/-- A write of XBDL_HI starts the transmit walk of an idle instance (rules R111, R225). -/
theorem writeXbdlHi_piece (hm : m ≠ .turbo) {d : Word} (hv : Csr.xlMask ∈ validates op) :
    Piece (At op s i (InMode m)) (writeXbdlHi i d) (fun _ => Moved op s) (Moved op s) := by
  refine Piece.getCtl fun c => Piece.when (P' := At op s i (Idle m))
    (fun _ t h => (keptOutside_moved op s).setFault t _ h.1.moved) (fun hn => ?_) fun _ => ?_
  · rintro t ⟨h, rfl⟩
    exact ⟨h.moved, h.holds, by simpa using hn⟩
  · exact (keeps_setXptr.toPiece fun _ h => h.moved).bind fun _ =>
      ((steady_idle.validate hv).toPiece fun _ h => h.moved).bind fun _ =>
        (keeps_txDispatch hm).moved.weaken (fun _ h => h.inMode) (fun _ _ h => h) fun _ h => h

theorem keeps_writeIcr {d : Word} : Keeps (At op s i (InMode m)) (writeIcr i d) :=
  Keeps.ask.bind fun _ => (steady_inMode.changeCtl fun _ _ => .icrEn _).bind fun _ => Keeps.change steady_inMode.intTurbo

theorem keeps_writeSrqr {d : Word} : Keeps (At op s i (InMode .turbo)) (writeSrqr i d) :=
  Keeps.ask.bind fun _ => Keeps.ite (keeps_turboStart.bind fun _ => steady_inMode.sanityReload) Keeps.pure

theorem writeArqr_piece {d : Word} :
    Piece (At op s i (InMode .turbo)) (writeArqr i d) (fun _ => Moved op s) (Moved op s) := by
  have walks : ∀ c : Config, Keeps (At op s i (InMode .turbo)) (do
      if d.getLsbD c.layout.arqRrq then ringRx i
      if d.getLsbD c.layout.arqTrq then ringTx i 0) :=
    fun _ => Keeps.when (steady_inMode.ringRx fits_inMode) fun _ => Keeps.ite keeps_ringTx Keeps.pure
  exact (Keeps.ask.toPiece fun _ h => h.moved).bind fun c => Piece.branch
    (fun _ => keeps_resetFull.weaken (fun _ h => h.moved) (fun _ _ h => h) fun _ h => h) fun _ => (walks c).moved

/-! ### Events -/

theorem keeps_tick : Keeps (Moved op s) (tick i) := by
  have expire : Keeps (Moved op s) (sanityExpire i) := Keeps.ask.bind fun _ => 
    Keeps.ite keeps_resetFull (keptOutside_moved op s).emit
  have sanity : Keeps (Moved op s) (sanityTick i) := Keeps.ask.bind fun _ =>
    Keeps.ite ((steady_moved.changeCtl fun _ _ => change_sanityCount _).bind fun _ => Keeps.ite expire Keeps.pure) Keeps.pure
  exact sanity.bind fun _ => steady_moved.sysidTick

theorem keeps_receive {f : List Byte} : Keeps (Moved op s) (receive i f) := by
  refine steady_moved.rqInsert.bind fun _ => Piece.getCtl fun c => Piece.branch (fun hc => ?_) fun _ => ?_
  · have walk : Keeps (At op s i (InMode .turbo)) (ringRx i) := steady_inMode.ringRx fits_inMode
    exact walk.moved.weaken (fun t h => ⟨h.1, h.2 ▸ hc⟩) (fun _ _ h => h) fun _ h => h
  · exact steady_moved.rxDispatch.weaken (fun _ h => h.1) (fun _ _ h => h) fun _ h => h

/-- A completion takes the message back, and its walk goes on from an idle instance (rule R183). -/
theorem keeps_completed {status : TxStatus} : Keeps (Moved op s) (completed i status) := by
  refine Piece.bind (Q := fun _ => At op s i (fun c => c.tx.txpend = none))
    (Piece.changeCtl fun t h => ⟨h.onCtl .takeBack, by rw [onCtl_ctl_same]; rfl⟩) fun _ =>
      Piece.getCtl fun c => Piece.branch (fun hc => ?_) fun hc => ?_
  · refine turboTxComplete_piece.weaken ?_ (fun _ _ h => h.moved) fun _ h => h.moved
    rintro t ⟨h, rfl⟩
    exact ⟨h.moved, hc, h.holds⟩
  · have classic : Keeps (At op s i (Idle c.mode)) (txComplete i status) := keeps_txComplete
    refine Piece.bind (classic.weaken ?_ (fun _ _ h => h.inMode) fun _ h => h.moved) fun _ => (keeps_txDispatch hc).moved
    rintro t ⟨h, rfl⟩
    exact ⟨h.moved, rfl, h.holds⟩

theorem selfTestDone_piece : Piece (At op s i fun c => c.classic.var.getLsbD Var.RS = true) (selfTestDone i)
    (fun _ => Moved op s) (Moved op s) :=
  Piece.getCfg (fun _ h => h.config) <| Piece.changeCtl fun _ h => h.moved.onCtl (.change (.selfTest _ h.holds))

theorem ackState_moved : Moved op s (ackState s) := by
  unfold ackState
  cases ackTarget s with
  | none => exact (keptOutside_moved op s).setYield _ _ (Moved.refl op s)
  | some j =>
    exact (keptOutside_moved op s).setYield _ _
      (steady_moved.change _ _ (steady_moved.clrInt _ (Moved.refl op s)) (change_ack _))

/-! ### Operations and steps -/

theorem moved_of_runOp {m : Op Unit} {R : Ctl → Prop} (hm : Piece (At op s i R) m (fun _ => Moved op s) (Moved op s))
    {t : State} (h : runOp m s = .next t) (hR : R (s.ctl i)) : Moved op s t :=
  runOp_next.1 h ▸ hm.endState (fun _ _ h => h) ⟨Moved.refl op s, hR⟩

theorem moved_of_inMode {n : Op Unit} (hm : Piece (At op s i (InMode m)) n (fun _ => Moved op s) (Moved op s))
    {t : State} (h : inMode m i n s = .next t) : Moved op s t :=
  (inMode_next.1 h).2 ▸ hm.endState (fun _ _ h => h) ⟨Moved.refl op s, (inMode_next.1 h).1⟩

/-- An operation changes the instances by its moves alone. -/
theorem exec_moved {t : State} (h : exec op s = .next t) : Moved op s t := by
  have outside := keptOutside_moved op s
  have start := Moved.refl op s
  have change : ∀ {j : Inst} {k : Mode} {f : Ctl → Ctl}, (∀ c, Change s.cfg op c (f c)) →
      inMode k j (changeCtl j f) s = .next t → Moved op s t :=
    fun hf h => moved_of_inMode (steady_inMode.changeCtl fun _ _ => hf _).moved h
  cases op with
  | lRdSa0 j | lRdSa1 j | cRdSa0 j | cRdSa1 j => exact outside.readStationOrCheck.inMode h start
  | lRdSa2 j | lRdSa3 j | lRdSa4 j | lRdSa5 j | cRdSa2 j | cRdSa3 j | cRdSa4 j | cRdSa5 j
  | tRdSa0 j | tRdSa1 j | tRdSa2 j | tRdSa3 j | tRdSa4 j | tRdSa5 j => exact outside.readStation.inMode h start
  | lRdVar j | cRdVar j => exact outside.readVar.inMode h start
  | lRdCsr j | cRdCsr j => exact outside.readCsr.inMode h start
  | tRdSrr j => exact outside.readSrr.inMode h start
  | tRdRsv j => exact outside.readReserved.inMode h start
  | lWrSa0 j d | lWrSa1 j d | cWrSa0 j d | cWrSa1 j d | tWrIgn0 j d | tWrIgn1 j d | tWrIgn5 j d =>
    exact Keeps.writeIgnored.inMode h start
  | lWrRbdlLo j d | cWrRbdlLo j d => exact change (fun _ => .rbdlLo d) h
  | lWrXbdlLo j d | cWrXbdlLo j d => exact change (fun _ => .xbdlLo d) h
  | lWrRbdlHi j d | cWrRbdlHi j d => exact moved_of_inMode (writeRbdlHi_piece (by simp [validates])) h
  | lWrXbdlHi j d | cWrXbdlHi j d => exact moved_of_inMode (writeXbdlHi_piece (by decide) (by simp [validates])) h
  | lWrVar j d | cWrVar j d => exact moved_of_inMode (writeVar_piece (by decide)) h
  | lWrCsr j d | cWrCsr j d => exact moved_of_inMode (writeCsr_piece (by decide)) h
  | tWrIbaLo j d => exact change (fun _ => .ibaLo d) h
  | tWrIbaHi j d => exact change (fun _ => .iba _) h
  | tWrIcr j d => exact moved_of_inMode keeps_writeIcr.moved h
  | tWrSrqr j d => exact moved_of_inMode keeps_writeSrqr.moved h
  | tWrArqr j d => exact moved_of_inMode writeArqr_piece h
  | ack => exact runOp_next.1 h ▸ ackState_moved
  | tick j => exact keeps_tick.runOp h start
  | rxf j frame =>
    simp only [exec, execRxf] at h
    split at h
    · exact keeps_receive.runOp h start
    · cases h
  | txdone j status tag =>
    have done : Keeps (Moved (.txdone j status tag) s) (transmitDone j status tag) :=
      Keeps.ask.bind fun _ => Keeps.ite keeps_completed Keeps.pure
    exact done.runOp h start
  | stdone j =>
    simp only [exec, execStdone] at h
    split at h
    · exact moved_of_runOp selfTestDone_piece h (by assumption)
    · cases h
  | busreset => exact (keeps_resetFull.bind fun _ => keeps_resetFull).runOp h start
  | poweron =>
    exact (keeps_powerOnInst.bind fun _ => keeps_powerOnInst.bind fun _ =>
      Keeps.change fun _ => outside.setCoord _ _ _).runOp h start
  | reserved37 | reserved38to3F code => exact outside.refuse.runOp h start

/-- Landing the driver's writes is no move. -/
theorem settled_moved {t : State} (h : Moved op (settled op s) t) : Moved op s t := by
  have cfg : (settled op s).cfg = s.cfg := by unfold settled; split <;> simp
  have ctl : ∀ u, (settled op s).ctl u = s.ctl u := fun u => by unfold settled; split <;> simp
  exact ⟨h.cfg.trans cfg, fun u => ctl u ▸ cfg ▸ h.path u⟩

/-- An operation that runs from a fetched input makes moves. -/
theorem runFetched_moved {f : Fetched} {t : State} (h : runFetched f s = .next t) : ∃ op, Moved op s t := by
  have outside := keptOutside_moved .ack s
  have start := Moved.refl .ack s
  cases f with
  | record r =>
    simp only [runFetched, runRecord] at h
    split at h
    next op _ =>
      simp only [runInstr] at h
      split at h
      · cases h
      · exact ⟨op, settled_moved (exec_moved h)⟩
    · cases h
  | badAccess => cases h; exact ⟨.ack, outside.addRefusal _ _ start⟩
  | elsewhere => cases h; exact ⟨.ack, start⟩
  | driver a bytes => cases h; exact ⟨.ack, driverState_keeps outside.putByte start⟩
  | later w => cases h; exact ⟨.ack, outside.setConcurrent _ _ start⟩

/-- A step changes the instances by the moves of some operation alone. -/
theorem step_moved {t : State} (h : step s = .next t) : ∃ op, Moved op s t := by
  cases hf : s.fault with
  | some r => rw [step_of_fault hf] at h; cases h
  | none =>
    cases hc : coordinatorOk s with
    | false =>
      rw [step_of_brokenCoordinator hf hc] at h
      cases h
      exact ⟨.ack, (keptOutside_moved .ack s).setFault _ _ (Moved.refl .ack s)⟩
    | true =>
      rw [step_of_sound hf hc] at h
      cases hi : s.inputs with
      | nil => rw [runInputs_nil hi] at h; cases h; exact ⟨.ack, Moved.refl .ack s⟩
      | cons x rest =>
        rw [runInputs_cons hi] at h
        obtain ⟨op, hm⟩ := runFetched_moved h
        exact ⟨op, hm.cfg, hm.path⟩

/-- What every move keeps, for every operation, holds of both instances after every step. -/
theorem step_keeps {Q : Inst → Ctl → Prop} {t : State}
    (hQ : ∀ op i c c', Move s.cfg op i c c' → Q i c → Q i c') (h : step s = .next t) (hs : Q .i0 s.i0 ∧ Q .i1 s.i1) :
    Q .i0 t.i0 ∧ Q .i1 t.i1 := by
  obtain ⟨op, hm⟩ := step_moved h
  exact ⟨hm.keeps (u := .i0) (hQ op .i0) hs.1, hm.keeps (u := .i1) (hQ op .i1) hs.2⟩

theorem step_cfg {t : State} (h : step s = .next t) : t.cfg = s.cfg := by
  obtain ⟨op, hm⟩ := step_moved h
  exact hm.cfg

end Sys2Proof.Machine
end

section
/-! The invariants of the two instances (10_state.md): each move keeps each of them, so every step does. -/

namespace Sys2Proof.Machine

variable {cfg : Config} {op : Instr} {i : Inst} {c c' : Ctl}

/-! ### The registers a change leaves or sets -/

/-- The bits a change of the stored CSR may set and clear: the device's, a list bit made valid, or those of a write. -/
inductive CsrMasks (op : Instr) : Word → Word → Prop
  | untouched : CsrMasks op 0 0
  | device (m : Word) (h : m ∈ deviceMasks) : CsrMasks op m 0
  | validate (m : Word) (h : m ∈ validates op) : CsrMasks op 0 m
  | write (d : Word) : CsrMasks op (csrSetMask d) (csrClrMask d)

theorem mem_validates {m : Word} (h : m ∈ validates op) : m = Csr.rlMask ∨ m = Csr.xlMask := by
  cases op with
  | lWrRbdlHi | cWrRbdlHi => exact .inl (List.mem_singleton.1 h)
  | lWrXbdlHi | cWrXbdlHi => exact .inr (List.mem_singleton.1 h)
  | _ => cases h

theorem csrAfter_zero (csr : Word) : csrAfter csr 0 0 = csr := by
  rw [csrAfter_clear, show ~~~(0 : Word) = BitVec.allOnes 16 from by decide, BitVec.and_allOnes]

theorem Change.csr (h : Change cfg op c c') :
    ∃ set clr, CsrMasks op set clr ∧ c'.classic.csr = csrAfter c.classic.csr set clr := by
  cases h with
  | device m h => exact ⟨m, 0, .device m h, rfl⟩
  | validate m h => exact ⟨0, m, .validate m h, rfl⟩
  | csrWrite d => exact ⟨_, _, .write d, rfl⟩
  | _ => exact ⟨0, 0, .untouched, (csrAfter_zero _).symm⟩

theorem Change.var (h : Change cfg op c c') :
    c'.classic.var = c.classic.var
      ∨ (c.classic.var.getLsbD Var.RS = true ∧ ∃ r, c'.classic.var = varTested c.classic.var r) := by
  cases h with
  | selfTest r h => exact .inr ⟨h, r, rfl⟩
  | _ => exact .inl rfl

/-! ### VAR bit by bit -/

/-- The result code of a self-test is in ST, bits 12:10 (rule R114). -/
theorem varTested_getLsbD {var : Word} {r : BitVec 3} {n : Nat} (h : n < 10 ∨ 13 < n) :
    (varTested var r).getLsbD n = var.getLsbD n := by
  have kept : ∀ n < 16, n < 10 ∨ 13 < n → (0xC3FF : Word).getLsbD n = true := by decide
  rcases Nat.lt_or_ge n 16 with hn | hn
  · have noResult : (r.setWidth 16 <<< 10).getLsbD n = false := by
      rw [BitVec.getLsbD_shiftLeft, BitVec.getLsbD_setWidth]
      rcases h with h | h
      · simp [h]
      · rw [BitVec.getLsbD_of_ge r (n - 10) (by omega)]
        simp
    have e : varTested var r = (var &&& (0xC3FF : Word)) ||| (r.setWidth 16 <<< 10) := rfl
    rw [e, BitVec.getLsbD_or, BitVec.getLsbD_and, kept n hn h, noResult, Bool.and_true, Bool.or_false]
  · rw [BitVec.getLsbD_of_ge _ _ hn, BitVec.getLsbD_of_ge _ _ hn]

/-- A write leaves the bits of VAR that it cannot write (rule R112). -/
theorem varAfter_getLsbD {type : DeviceType} {var d : Word} {n : Nat} (h : (varMask type).getLsbD n = false) :
    (varAfter type var d).getLsbD n = var.getLsbD n := by
  rcases Nat.lt_or_ge n 16 with hn | hn
  · simp only [varAfter, BitVec.getLsbD_or, BitVec.getLsbD_and, BitVec.getLsbD_not, h, hn, decide_true, Bool.not_false,
      Bool.and_true, Bool.and_false, Bool.or_false]
    cases var.getLsbD n <;> simp
  · rw [BitVec.getLsbD_of_ge _ _ hn, BitVec.getLsbD_of_ge _ _ hn]

/-- At reset VAR holds MS by the type, OS by the option switch, and nothing else (rules R33, R217). -/
theorem varReset_getLsbD (u : UnitConfig) (n : Nat) :
    (varReset u).getLsbD n
      = (decide (u.type ≠ .legacy) && (0x8000 : Word).getLsbD n || u.optionSwitch && (0x4000 : Word).getLsbD n) := by
  have ms : (if u.type = .legacy then (0x0000 : Word) else 0x8000).getLsbD n
      = (decide (u.type ≠ .legacy) && (0x8000 : Word).getLsbD n) := by
    by_cases h : u.type = .legacy
    · rw [if_pos h, decide_eq_false (not_not_intro h), Bool.false_and]; exact BitVec.getLsbD_zero
    · rw [if_neg h, decide_eq_true h, Bool.true_and]
  have os : (if u.optionSwitch = true then (0x4000 : Word) else 0x0000).getLsbD n
      = (u.optionSwitch && (0x4000 : Word).getLsbD n) := by
    cases u.optionSwitch
    · exact BitVec.getLsbD_zero
    · rfl
  rw [varReset, BitVec.getLsbD_or, ms, os]

theorem varReset_getLsbD_one (u : UnitConfig) : (varReset u).getLsbD 1 = false := by
  rw [varReset_getLsbD, show (0x8000 : Word).getLsbD 1 = false from by decide,
    show (0x4000 : Word).getLsbD 1 = false from by decide, Bool.and_false, Bool.and_false, Bool.or_false]

theorem varReset_getLsbD_os (u : UnitConfig) : (varReset u).getLsbD Var.OS = u.optionSwitch := by
  rw [varReset_getLsbD, show (0x8000 : Word).getLsbD Var.OS = false from by decide,
    show (0x4000 : Word).getLsbD Var.OS = true from by decide, Bool.and_false, Bool.and_true, Bool.false_or]

theorem varReset_getLsbD_ms (u : UnitConfig) : (varReset u).getLsbD Var.MS = decide (u.type ≠ .legacy) := by
  rw [varReset_getLsbD, show (0x8000 : Word).getLsbD Var.MS = true from by decide,
    show (0x4000 : Word).getLsbD Var.MS = false from by decide, Bool.and_false, Bool.and_true, Bool.or_false]

/-! ### Modes (rules R19, R34, R41) -/

theorem modeOk_reset (cfg : Config) (i : Inst) (c : Ctl) : ModeOk (cfg.unit i) (resetCtl cfg i c) := by
  have ms : (resetCtl cfg i c).classic.var.getLsbD Var.MS = decide ((cfg.unit i).type ≠ .legacy) :=
    varReset_getLsbD_ms (cfg.unit i)
  have mode : (resetCtl cfg i c).mode = if (cfg.unit i).type = .legacy then .legacy else .compatible := rfl
  have ta : (resetCtl cfg i c).turbo.srr.ta = false := rfl
  by_cases h : (cfg.unit i).type = .legacy
  · simp only [ModeOk, ms, mode, ta, h]; decide
  · simp [ModeOk, ms, mode, ta, h]

theorem Change.modeOk {u : UnitConfig} (h : Change cfg op c c') (hc : ModeOk u c) : ModeOk u c' := by
  have ms : c'.classic.var.getLsbD Var.MS = c.classic.var.getLsbD Var.MS := by
    rcases h.var with e | ⟨_, r, e⟩ <;> rw [e]
    exact varTested_getLsbD (by decide)
  simpa only [ModeOk, h.still.mode, h.still.ta, ms] using hc

/-- A write of VAR selects a classic mode in agreement with MS; a legacy type can write neither (rule R112). -/
theorem modeOk_varWrite {u : UnitConfig} (d : Word) (hm : c.mode ≠ .turbo) (hc : ModeOk u c) :
    ModeOk u ((c.setVar (varAfter u.type c.classic.var d)).setMode
      (varMode u.type c.mode (varAfter u.type c.classic.var d))) := by
  obtain ⟨legacy, compatible, ms, ta⟩ := hc
  have notTa : c.turbo.srr.ta ≠ true := fun h => hm (ta.1 h)
  simp only [ModeOk, Ctl.setMode_mode, Ctl.setMode_classic, Ctl.setMode_turbo, Ctl.setVar_var, Ctl.setVar_turbo]
  by_cases hl : u.type = .legacy
  · have kept : (varAfter u.type c.classic.var d).getLsbD Var.MS = c.classic.var.getLsbD Var.MS :=
      varAfter_getLsbD (by rw [hl]; decide)
    simp only [varMode, if_pos hl, kept]
    exact ⟨legacy, compatible, ms, ta⟩
  · cases hms : (varAfter u.type c.classic.var d).getLsbD Var.MS
    · simp only [varMode, if_neg hl, hms]
      exact ⟨fun h => absurd h hl, fun _ => by decide, fun _ => by decide, by simp [notTa]⟩
    · simp only [varMode, if_neg hl, hms]
      exact ⟨fun h => absurd h hl, fun _ => by decide, fun _ => by decide, by simp [notTa]⟩

theorem Move.modeOk (h : Move cfg op i c c') (hc : ModeOk (cfg.unit i) c) : ModeOk (cfg.unit i) c' := by
  cases h with
  | change h => exact h.modeOk hc
  | xptr | txIdx | handOff | takeBack | initBlock | started => exact hc
  | varWrite d hm => exact modeOk_varWrite d hm hc
  | turboEnter h => simp [ModeOk, turboEnterCtl, sanityDisarmCtl, h]
  | reset | powerOn => exact modeOk_reset cfg i _

/-- Settles O49: every move keeps the mode legal, and a step makes moves only. -/
theorem stepKeepsModes : Obligations.StepKeepsModes := by
  intro s t hs h
  have kept := step_keeps (Q := fun i => ModeOk (s.cfg.unit i)) (fun _ _ _ _ m => m.modeOk) h hs
  rw [State.ModesOk, step_cfg h]
  exact kept

/-! ### Registers (rules R21, R33, R47) -/

theorem and_eq_zero_iff {x m : Word} : x &&& m = 0 ↔ ∀ n, m.getLsbD n = true → x.getLsbD n = false := by
  constructor
  · intro h n hn
    have bit : (x &&& m).getLsbD n = false := by rw [h]; exact BitVec.getLsbD_zero
    rwa [BitVec.getLsbD_and, hn, Bool.and_true] at bit
  · intro h
    apply BitVec.eq_of_getLsbD_eq
    intro n _
    refine Eq.trans ?_ BitVec.getLsbD_zero.symm
    rw [BitVec.getLsbD_and]
    cases hm : m.getLsbD n with
    | false => rw [Bool.and_false]
    | true => rw [h n hm, Bool.false_and]

theorem deviceMasks_cases {m : Word} (h : m ∈ deviceMasks) :
    m = Csr.riMask ∨ m = Csr.xiMask ∨ m = Csr.rlMask ∨ m = Csr.xlMask ∨ m = Csr.nxmMask := by
  simpa only [deviceMasks, List.mem_cons, List.not_mem_nil, or_false] using h


/-- No change of the stored CSR sets a computed bit (rule R21). -/
theorem CsrMasks.computed {set clr : Word} (h : CsrMasks op set clr) : set &&& Csr.computedMask = 0 := by
  cases h with
  | untouched | validate => decide
  | device _ h => rcases deviceMasks_cases h with rfl | rfl | rfl | rfl | rfl <;> decide
  | write d =>
    have apart : Csr.rwMask &&& Csr.computedMask = 0 := by decide
    rw [csrSetMask, BitVec.and_assoc, apart]
    exact BitVec.and_zero

theorem csrAfter_computed {csr set clr : Word} (hc : csr &&& Csr.computedMask = 0) (hs : set &&& Csr.computedMask = 0) :
    csrAfter csr set clr &&& Csr.computedMask = 0 := by
  rw [and_eq_zero_iff] at hc hs ⊢
  intro n hn
  rw [csrAfter, BitVec.getLsbD_and, BitVec.getLsbD_or, hc n hn, hs n hn, Bool.or_false, Bool.false_and]

theorem setupFilters_length (f : List Byte) : (setupFilters f).length ≤ 14 := by
  rw [setupFilters, List.length_map]
  exact (List.length_filter_le _ _).trans (by rw [List.length_range])

theorem Change.filters (h : Change cfg op c c') (hc : c.setup.filters.length ≤ 14) : c'.setup.filters.length ≤ 14 := by
  cases h with
  | setup f =>
    show (setupAfter cfg.setupBits c.setup f).filters.length ≤ 14
    unfold setupAfter
    split <;> exact setupFilters_length f
  | _ => exact hc

theorem Change.registersOk {u : UnitConfig} (h : Change cfg op c c') (hc : RegistersOk u c) : RegistersOk u c' := by
  obtain ⟨csr, one, os, legacy, filters⟩ := hc
  obtain ⟨set, clr, masks, hcsr⟩ := h.csr
  refine ⟨hcsr ▸ csrAfter_computed csr masks.computed, ?_, ?_, fun hl => ?_, h.filters filters⟩ <;>
    rcases h.var with e | ⟨rs, r, e⟩ <;> rw [e]
  · exact one
  · exact (varTested_getLsbD (by decide)).trans one
  · exact os
  · exact (varTested_getLsbD (by decide)).trans os
  · exact legacy hl
  · rw [and_eq_zero_iff.1 (legacy hl) Var.RS (by decide)] at rs
    cases rs

/-- A write of VAR leaves its reserved bit, OS, and on a legacy type every bit but IV (rule R112). -/
theorem registersOk_varWrite {u : UnitConfig} {m : Mode} (d : Word) (hc : RegistersOk u c) :
    RegistersOk u ((c.setVar (varAfter u.type c.classic.var d)).setMode m) := by
  obtain ⟨csr, one, os, legacy, filters⟩ := hc
  have readOnly : ∀ n ∈ [1, Var.OS], (varMask u.type).getLsbD n = false := by cases u.type <;> decide
  refine ⟨csr, (varAfter_getLsbD (readOnly 1 (by simp))).trans one,
    (varAfter_getLsbD (readOnly Var.OS (by simp))).trans os, fun hl => ?_, filters⟩
  have apart : ∀ n < 16, (0xBC01 : Word).getLsbD n = true → (varMask .legacy).getLsbD n = false := by decide
  have old := and_eq_zero_iff.1 (legacy hl)
  refine and_eq_zero_iff.2 fun n hn => ?_
  have hn16 : n < 16 := Nat.lt_of_not_le fun h => by rw [BitVec.getLsbD_of_ge _ _ h] at hn; cases hn
  exact (varAfter_getLsbD (hl ▸ apart n hn16 hn)).trans (old n hn)

theorem registersOk_reset (cfg : Config) (i : Inst) (c : Ctl) : RegistersOk (cfg.unit i) (resetCtl cfg i c) := by
  refine ⟨by show (0x0030 : Word) &&& Csr.computedMask = 0; decide, varReset_getLsbD_one _, varReset_getLsbD_os _,
    fun hl => ?_, Nat.zero_le _⟩
  show varReset (cfg.unit i) &&& 0xBC01 = 0
  unfold varReset
  rw [if_pos hl]
  split <;> decide

theorem Move.registersOk (h : Move cfg op i c c') (hc : RegistersOk (cfg.unit i) c) : RegistersOk (cfg.unit i) c' := by
  cases h with
  | change h => exact h.registersOk hc
  | xptr | txIdx | handOff | takeBack | started | turboEnter => exact hc
  | initBlock r h =>
    obtain ⟨csr, one, os, legacy, _⟩ := hc
    exact ⟨csr, one, os, legacy, by show [r.block.phys].length ≤ 14; simp⟩
  | varWrite d _ => exact registersOk_varWrite d hc
  | reset | powerOn => exact registersOk_reset cfg i _

/-- Settles O50: every move keeps the registers legal. -/
theorem stepKeepsRegisters : Obligations.StepKeepsRegisters := by
  intro s t hs h
  have kept := step_keeps (Q := fun i => RegistersOk (s.cfg.unit i)) (fun _ _ _ _ m => m.registersOk) h hs
  rw [State.RegistersOk, step_cfg h]
  exact kept

end Sys2Proof.Machine
end

section
/-! The invariants of the subscription, the transmit state, the Read Queue, the timers and the ring indices, and the marks and
list bits that no operation clears: each move, and each change outside the instances, keeps them. -/

namespace Sys2Proof.Machine

variable {cfg : Config} {op : Instr} {i : Inst} {c c' : Ctl}

/-! ### Subscriptions (rule R40) -/

theorem varMode_ne_turbo {type : DeviceType} {old : Mode} {var : Word} (h : old ≠ .turbo) :
    varMode type old var ≠ .turbo := by
  unfold varMode
  split_ifs
  · exact h
  · decide
  · decide

/-- The edges of RE keep the subscription equal to RE (rule R102). -/
theorem subscribedAfter_eq (old new : Word) : subscribedAfter old new (old.getLsbD Csr.RE) = new.getLsbD Csr.RE := by
  unfold subscribedAfter rises falls
  cases old.getLsbD Csr.RE <;> cases new.getLsbD Csr.RE <;> rfl

theorem SubscriptionOk.setCsr {csr : Word} (hc : SubscriptionOk c)
    (h : csr.getLsbD Csr.RE = c.classic.csr.getLsbD Csr.RE) : SubscriptionOk (c.setCsr csr) := by
  simpa only [SubscriptionOk, Ctl.setCsr_rxSubscribed, Ctl.setCsr_mode, Ctl.setCsr_turbo, Ctl.setCsr_csr, h] using hc

theorem Change.subscriptionOk (h : Change cfg op c c') (hc : SubscriptionOk c) : SubscriptionOk c' := by
  cases h with
  | device m h =>
    refine hc.setCsr (csrAfter_getLsbD_of_untouched ?_ BitVec.getLsbD_zero)
    rcases deviceMasks_cases h with rfl | rfl | rfl | rfl | rfl <;> decide
  | validate m h =>
    refine hc.setCsr (csrAfter_getLsbD_of_untouched BitVec.getLsbD_zero ?_)
    rcases mem_validates h with rfl | rfl <;> decide
  | csrWrite d p t hm h =>
    rw [SubscriptionOk, if_neg hm] at hc
    show subscribedAfter _ _ c.rxSubscribed = if c.mode = .turbo then _ else _
    rw [if_neg hm, hc, subscribedAfter_eq]
    rfl
  | nxmTurbo h => exact (if_pos h).symm
  | _ => exact hc

theorem Move.subscriptionOk (h : Move cfg op i c c') (hc : SubscriptionOk c) : SubscriptionOk c' := by
  cases h with
  | change h => exact h.subscriptionOk hc
  | xptr | txIdx | handOff | takeBack | initBlock => exact hc
  | started hm => exact (if_pos hm).symm
  | varWrite d hm =>
    rw [SubscriptionOk, if_neg hm] at hc
    exact hc.trans (if_neg (varMode_ne_turbo hm)).symm
  | turboEnter => rfl
  | reset | powerOn =>
    have off : (0x0030 : Word).getLsbD Csr.RE = false := by decide
    exact (ite_self false).symm.trans (by rw [← off]; rfl)

/-- Settles O51: every move keeps the subscription. -/
theorem stepKeepsSubscriptions : Obligations.StepKeepsSubscriptions := fun _ _ hs h =>
  step_keeps (Q := fun _ => SubscriptionOk) (fun _ _ _ _ m => m.subscriptionOk) h hs

/-! ### The transmit state (rules R39, R158, R171) -/

theorem keepUpTo_length {cap : Nat} {buf : List Byte} (more : List Byte) (h : buf.length ≤ cap) :
    (keepUpTo cap buf more).length ≤ cap := by
  rw [keepUpTo, List.length_append, List.length_take]
  omega

theorem Change.txbuf (h : Change cfg op c c') (hc : c.tx.txbuf.length ≤ cfg.txbufMax) :
    c'.tx.txbuf.length ≤ cfg.txbufMax := by
  cases h with
  | gather bytes => exact keepUpTo_length bytes hc
  | dropBuffer | nxmTurbo => exact Nat.zero_le _
  | _ => exact hc

theorem transmitOk_iff : TransmitOk cfg c ↔ c.tx.txbuf.length ≤ cfg.txbufMax
    ∧ ∀ p ∈ c.tx.txpend, p.gen = c.tx.gen ∧ p.addr = walkAddr cfg c := Iff.rfl

theorem transmitOk_of_idle (hb : c.tx.txbuf.length ≤ cfg.txbufMax) (hp : c.tx.txpend = none) : TransmitOk cfg c :=
  ⟨hb, fun p h => by rw [hp] at h; cases h⟩

theorem Change.transmitOk (h : Change cfg op c c') (hc : TransmitOk cfg c) : TransmitOk cfg c' := by
  rw [transmitOk_iff] at hc ⊢
  rw [h.still.txpend, h.still.gen, h.still.walkAddr]
  exact ⟨h.txbuf hc.1, hc.2⟩

theorem Move.transmitOk (h : Move cfg op i c c') (hc : TransmitOk cfg c) : TransmitOk cfg c' := by
  cases h with
  | change h => exact h.transmitOk hc
  | xptr _ h | txIdx _ h | initBlock _ h | started _ h => exact transmitOk_of_idle hc.1 h
  | handOff h =>
    refine ⟨hc.1, fun p hp => ?_⟩
    obtain rfl : _ = p := Option.some.inj hp
    exact ⟨rfl, rfl⟩
  | takeBack => exact transmitOk_of_idle hc.1 rfl
  | varWrite d hm =>
    have place : walkAddr cfg c = c.classic.xptr := if_neg hm
    refine ⟨hc.1, fun p hp => ?_⟩
    obtain ⟨gen, addr⟩ := (transmitOk_iff.1 hc).2 p hp
    exact ⟨gen, (addr.trans place).trans (if_neg (varMode_ne_turbo hm)).symm⟩
  | turboEnter | reset | powerOn => exact transmitOk_of_idle (Nat.zero_le _) rfl

/-- Settles O53: a message is handed off at the walk's position, and nothing moves the walk while it is out. -/
theorem stepKeepsTransmits : Obligations.StepKeepsTransmits := by
  intro s t hs h
  have kept := step_keeps (Q := fun _ => TransmitOk s.cfg) (fun _ _ _ _ m => m.transmitOk) h hs
  rw [State.TransmitsOk, step_cfg h]
  exact kept

/-! ### The Read Queue (rules R48, R151, R174) -/

theorem normalise_length (f : List Byte) : ethMin ≤ (normalise f).length ∧ (normalise f).length ≤ ethMax := by
  simp only [normalise, ethMin, ethMax, List.length_take, List.length_append, List.length_replicate]
  omega

/-- A part of an item that is not its last leaves bytes to deliver (rule R149). -/
theorem segment_lt {q : Item} {len : Nat} (h : q.offset < q.bytes.length) (part : segmentLast q len = false) :
    q.offset + (segment q len).length < q.bytes.length := by
  have notAll : q.offset + (segment q len).length ≠ q.bytes.length := of_decide_eq_false part
  have within : (segment q len).length ≤ q.bytes.length - q.offset := by
    rw [segment, List.length_take, List.length_drop]
    exact Nat.min_le_right _ _
  omega

/-- What QueueOk says of the queue's items. -/
abbrev ItemOk (q : Item) : Prop := ethMin ≤ q.bytes.length ∧ q.bytes.length ≤ ethMax ∧ q.offset < q.bytes.length

theorem itemOk_inserted (kind : ItemKind) (f : List Byte) :
    ItemOk { kind := kind, bytes := normalise f, offset := 0 } :=
  ⟨(normalise_length f).1, (normalise_length f).2, Nat.lt_of_lt_of_le (by decide : 0 < ethMin) (normalise_length f).1⟩

theorem queueAfter_ok {cap : Nat} {q : ReadQueue} {item : Item} (hcap : 1 ≤ cap) (hi : ItemOk item)
    (hq : q.readq.length ≤ cap ∧ ∀ x ∈ q.readq, ItemOk x) :
    (queueAfter cap q item).readq.length ≤ cap ∧ ∀ x ∈ (queueAfter cap q item).readq, ItemOk x := by
  unfold queueAfter
  split
  · refine ⟨?_, fun x hx => ?_⟩
    · simp only [List.length_append, List.length_drop, List.length_singleton]
      omega
    · rcases List.mem_append.1 hx with h | h
      · exact hq.2 x (List.mem_of_mem_drop h)
      · exact List.mem_singleton.1 h ▸ hi
  · refine ⟨?_, fun x hx => ?_⟩
    · simp only [List.length_append, List.length_singleton]
      omega
    · rcases List.mem_append.1 hx with h | h
      · exact hq.2 x h
      · exact List.mem_singleton.1 h ▸ hi

theorem QueueChange.ok {q q' : ReadQueue} (hcap : 1 ≤ cfg.readqCap) (h : QueueChange cfg q q')
    (hq : q.readq.length ≤ cfg.readqCap ∧ ∀ x ∈ q.readq, ItemOk x) :
    q'.readq.length ≤ cfg.readqCap ∧ ∀ x ∈ q'.readq, ItemOk x := by
  cases h with
  | keep => exact hq
  | insert kind f => exact queueAfter_ok hcap (itemOk_inserted kind f) hq
  | finish h rest e =>
    rw [e, List.length_cons, List.forall_mem_cons] at hq
    exact ⟨Nat.le_of_succ_le hq.1, hq.2.2⟩
  | advance h rest len e part =>
    rw [e, List.length_cons, List.forall_mem_cons] at hq
    obtain ⟨length, ⟨lo, hi, offset⟩, others⟩ := hq
    exact ⟨length, List.forall_mem_cons.2 ⟨⟨lo, hi, segment_lt offset part⟩, others⟩⟩

theorem Move.queueOk (hcap : 1 ≤ cfg.readqCap) (h : Move cfg op i c c') (hc : QueueOk cfg c) : QueueOk cfg c' := by
  cases h with
  | change h =>
    cases h with
    | queue q x h => exact h.ok hcap hc
    | _ => exact hc
  | reset | powerOn => exact ⟨Nat.zero_le _, fun _ h => by cases h⟩
  | _ => exact hc

/-- Settles O54: every move keeps the queue legal, when an item has room. -/
theorem stepKeepsQueues : Obligations.StepKeepsQueues := by
  intro s t hcap hs h
  have kept := step_keeps (Q := fun _ => QueueOk s.cfg) (fun _ _ _ _ m => m.queueOk hcap) h hs
  rw [State.QueuesOk, step_cfg h]
  exact kept

/-! ### The timers and the ring indices (rules R44, R212) -/

theorem TimerChange.ok {t t' : Timers} (hp : 1 ≤ cfg.sysidPeriod) (h : TimerChange cfg t t')
    (ht : t.sanCount ≤ 4 * 65535 ∧ (t.sanArmed = true → 0 < t.sanCount) ∧ 0 < t.sysidCount
      ∧ t.sysidCount ≤ cfg.sysidPeriod) :
    t'.sanCount ≤ 4 * 65535 ∧ (t'.sanArmed = true → 0 < t'.sanCount) ∧ 0 < t'.sysidCount
      ∧ t'.sysidCount ≤ cfg.sysidPeriod := by
  obtain ⟨range, armed, pos, le⟩ := ht
  cases h with
  | keep | sent => exact ⟨range, armed, pos, le⟩
  | arm n npos h => exact ⟨h, fun _ => npos, pos, le⟩
  | disarm => exact ⟨range, fun h => (by cases h), pos, le⟩
  | count => exact ⟨by dsimp only; omega, fun h => Nat.pos_of_ne_zero (of_decide_eq_true h), pos, le⟩
  | sysid => refine ⟨range, armed, ?_, ?_⟩ <;> dsimp only <;> split <;> omega

theorem Move.timersOk (hp : 1 ≤ cfg.sysidPeriod) (h : Move cfg op i c c') (hc : TimersOk cfg c) : TimersOk cfg c' := by
  cases h with
  | change h =>
    cases h with
    | timers t x h => exact h.ok hp hc
    | csrWrite d p t hm h => exact h.ok hp hc
    | _ => exact hc
  | turboEnter => exact TimerChange.ok (t := c.timers) hp .disarm hc
  | reset | powerOn => exact ⟨Nat.zero_le _, fun h => (by cases h), hp, Nat.le_refl _⟩
  | _ => exact hc

theorem Move.ringsOk (hr : 1 ≤ cfg.rxRingN) (ht : 1 ≤ cfg.txRingN) (h : Move cfg op i c c') (hc : RingsOk cfg c) :
    RingsOk cfg c' := by
  cases h with
  | change h =>
    cases h with
    | rxIdx k => exact ⟨Nat.mod_lt _ hr, hc.2⟩
    | _ => exact hc
  | txIdx k => exact ⟨hc.1, Nat.mod_lt _ ht⟩
  | started | reset | powerOn => exact ⟨hr, ht⟩
  | _ => exact hc

/-- Settles O55: every move keeps the counters in range, when no period and no ring is empty. -/
theorem stepKeepsCounters : Obligations.StepKeepsCounters := by
  rintro s t hw ⟨⟨timers0, timers1⟩, rings0, rings1⟩ h
  simp only [Config.wellFormed, Bool.and_eq_true, decide_eq_true_eq] at hw
  obtain ⟨⟨⟨⟨⟨⟨_, period⟩, rx⟩, tx⟩, _⟩, _⟩, _⟩ := hw
  rw [State.TimersOk, State.RingsOk, step_cfg h]
  exact ⟨step_keeps (Q := fun _ => TimersOk s.cfg) (fun _ _ _ _ m => m.timersOk period) h ⟨timers0, timers1⟩,
    step_keeps (Q := fun _ => RingsOk s.cfg) (fun _ _ _ _ m => m.ringsOk rx tx) h ⟨rings0, rings1⟩⟩

/-! ### Marks and histories (rules R18, R53) -/

theorem Move.hung (h : Move cfg op i c c') (hc : c.hung = true) : c'.hung = true := by
  cases h with
  | change h => exact h.still.hung hc
  | _ => exact hc

/-- The marks of `s` are set in `t` too, and the histories of `t` go on from those of `s`. -/
structure MarksKept (s t : State) : Prop where
  fault : s.fault ≠ none → t.fault ≠ none
  refused : s.refused = true → t.refused = true
  refusals : s.refusals <+: t.refusals
  trace : s.trace <+: t.trace
  events : s.events <+: t.events

theorem MarksKept.of_eq {s t t' : State} (h : MarksKept s t) (fault : t'.fault = t.fault)
    (refused : t'.refused = t.refused) (refusals : t'.refusals = t.refusals) (trace : t'.trace = t.trace)
    (events : t'.events = t.events) : MarksKept s t' :=
  ⟨fault ▸ h.fault, refused ▸ h.refused, refusals ▸ h.refusals, trace ▸ h.trace, events ▸ h.events⟩

theorem keptOutside_marks (s : State) : KeptOutside (MarksKept s) where
  setCoord _ _ _ h := h.of_eq rfl rfl rfl rfl rfl
  setFault _ r h := { h with fault := fun _ => Option.some_ne_none r }
  addRefusal _ _ h := { h with refused := fun _ => rfl, refusals := h.refusals.trans (List.prefix_append _ _) }
  nextDraw _ h := h.of_eq rfl rfl rfl rfl rfl
  setYield _ _ h := h.of_eq rfl rfl rfl rfl rfl
  putByte t a b h := h.of_eq (by simp) (by simp) (by simp) (by simp) (by simp)
  setConcurrent _ _ h := h.of_eq rfl rfl rfl rfl rfl
  addTrace _ _ h := { h with trace := h.trace.trans (List.prefix_append _ _) }
  addEvent _ _ h := { h with events := h.events.trans (List.prefix_append _ _) }

theorem exec_marksKept {s t : State} (h : exec op s = .next t) : MarksKept s t :=
  exec_keeps (keptOutside_marks s)
    (fun _ _ _ _ hs => hs.of_eq (onCtl_fault _ _ _) (onCtl_refused _ _ _) (onCtl_refusals _ _ _) (onCtl_trace _ _ _)
      (onCtl_events _ _ _))
    h ⟨id, id, List.prefix_rfl, List.prefix_rfl, List.prefix_rfl⟩

/-- Settles O57: the marks outside the instances are only set and the histories only added to; an instance's moves leave
the configuration and a hang. -/
theorem configurationAndMarks : Obligations.ConfigurationAndMarks := by
  intro op s t h
  obtain ⟨fault, refused, ⟨r, hr⟩, ⟨w, hw⟩, ⟨e, he⟩⟩ := exec_marksKept h
  exact ⟨(exec_moved h).cfg, fault, refused, fun u => (exec_moved h).keeps fun _ _ => Move.hung, ⟨r, hr.symm⟩,
    ⟨w, hw.symm⟩, ⟨e, he.symm⟩⟩

/-! ### The list bits (rules R25, R26) -/

/-- No CSR write clears a list bit (rule R82). -/
theorem csrClrMask_list (d : Word) {n : Nat} (hn : n = Csr.RL ∨ n = Csr.XL) : (csrClrMask d).getLsbD n = false := by
  have sets : Csr.rwMask.getLsbD n = false := by rcases hn with rfl | rfl <;> decide
  have w1c : Csr.w1cMask.getLsbD n = false := by rcases hn with rfl | rfl <;> decide
  have ni : Csr.niMask.getLsbD n = false := by rcases hn with rfl | rfl <;> decide
  rw [csrClrMask, BitVec.getLsbD_or, BitVec.getLsbD_or, BitVec.getLsbD_and, BitVec.getLsbD_and, sets, w1c, Bool.and_false,
    Bool.and_false, Bool.false_or, Bool.false_or]
  split
  · exact ni
  · exact BitVec.getLsbD_zero

/-- A list bit is cleared only by being made valid. -/
theorem CsrMasks.clears_list {set clr : Word} {n : Nat} (h : CsrMasks op set clr) (hn : n = Csr.RL ∨ n = Csr.XL)
    (hc : clr.getLsbD n = true) : ∃ m ∈ validates op, m.getLsbD n = true := by
  cases h with
  | untouched | device => cases hc.symm.trans BitVec.getLsbD_zero
  | validate m h => exact ⟨clr, h, hc⟩
  | write d => rw [csrClrMask_list d hn] at hc; cases hc

/-- A list bit that no write of this operation makes valid stays set. -/
theorem Move.listBit {n : Nat} (hn : n = Csr.RL ∨ n = Csr.XL) (hv : ¬∃ m ∈ validates op, m.getLsbD n = true)
    (h : Move cfg op i c c') (hc : c.classic.csr.getLsbD n = true) : c'.classic.csr.getLsbD n = true := by
  cases h with
  | change h =>
    obtain ⟨set, clr, masks, e⟩ := h.csr
    have hn16 : n < 16 := by rcases hn with rfl | rfl <;> decide
    have kept : clr.getLsbD n = false := by
      by_contra hclr
      exact hv (masks.clears_list hn (by simpa using hclr))
    rw [e, csrAfter, BitVec.getLsbD_and, BitVec.getLsbD_or, BitVec.getLsbD_not, hc, kept]
    simp [hn16]
  | reset | powerOn =>
    show (0x0030 : Word).getLsbD n = true
    rcases hn with rfl | rfl <;> decide
  | _ => exact hc

/-- An operation that clears a list bit of an instance makes it valid there. -/
theorem exec_clears_list {s t : State} {u : Inst} {n : Nat} (h : exec op s = .next t) (hn : n = Csr.RL ∨ n = Csr.XL)
    (hs : (s.ctl u).classic.csr.getLsbD n = true) (ht : (t.ctl u).classic.csr.getLsbD n = false) :
    u ∈ needs (ackTarget s) op ∧ ∃ m ∈ validates op, m.getLsbD n = true := by
  constructor
  · by_contra hu
    rw [otherInstanceKept op u s t hu h, hs] at ht
    cases ht
  · by_contra hv
    have kept := (exec_moved h).keeps (u := u) (fun _ _ => Move.listBit hn hv) hs
    rw [kept] at ht
    cases ht

theorem rl_validated {acked : Option Inst} {u : Inst} (hu : u ∈ needs acked op) (h : Csr.rlMask ∈ validates op) :
    ∃ d, op = .lWrRbdlHi u d ∨ op = .cWrRbdlHi u d := by
  cases op with
  | lWrRbdlHi j d => exact ⟨d, .inl (by rw [List.mem_singleton.1 hu])⟩
  | cWrRbdlHi j d => exact ⟨d, .inr (by rw [List.mem_singleton.1 hu])⟩
  | lWrXbdlHi | cWrXbdlHi => exact absurd (List.mem_singleton.1 h) (by decide)
  | _ => cases h

theorem xl_validated {acked : Option Inst} {u : Inst} (hu : u ∈ needs acked op) (h : Csr.xlMask ∈ validates op) :
    ∃ d, op = .lWrXbdlHi u d ∨ op = .cWrXbdlHi u d := by
  cases op with
  | lWrXbdlHi j d => exact ⟨d, .inl (by rw [List.mem_singleton.1 hu])⟩
  | cWrXbdlHi j d => exact ⟨d, .inr (by rw [List.mem_singleton.1 hu])⟩
  | lWrRbdlHi | cWrRbdlHi => exact absurd (List.mem_singleton.1 h) (by decide)
  | _ => cases h

/-- Settles O60: an operation that clears RL or XL is a write of that list's base, and addressed to the instance. -/
theorem listBitsClearedOnlyByBase : Obligations.ListBitsClearedOnlyByBase := by
  intro op u s t h
  constructor
  · intro hs ht
    obtain ⟨hu, m, hm, bit⟩ := exec_clears_list h (.inl rfl) hs ht
    rcases mem_validates hm with rfl | rfl
    · exact rl_validated hu hm
    · exact absurd bit (by decide)
  · intro hs ht
    obtain ⟨hu, m, hm, bit⟩ := exec_clears_list h (.inr rfl) hs ht
    rcases mem_validates hm with rfl | rfl
    · exact absurd bit (by decide)
    · exact xl_validated hu hm

end Sys2Proof.Machine
end

section
/-! A bus access runs the operation of its slot (rules R20, R61, R76), and a CSR write that takes SR to 0 is a full reset
(rules R102, R218). -/

namespace Sys2Proof.Machine

/-! ### The records of the accesses -/

/-- The record a bus read forms is that of the slot's read. -/
theorem encode_readInstr (m : Mode) (slot : Fin 8) (i : Inst) :
    encode (readInstr m slot i) = [accessCode m false slot, instByte i] := by
  cases m <;> fin_cases slot <;> rfl

/-- The record a bus write forms is that of the slot's write. -/
theorem encode_writeInstr (m : Mode) (slot : Fin 8) (i : Inst) (d : Word) :
    encode (writeInstr m slot i d) = [accessCode m true slot, instByte i, lowByte d, highByte d] := by
  cases m <;> fin_cases slot <;> rfl

theorem readInstr_wellFormed (m : Mode) (slot : Fin 8) (i : Inst) : (readInstr m slot i).wellFormed = true := by
  cases m <;> fin_cases slot <;> rfl

theorem writeInstr_wellFormed (m : Mode) (slot : Fin 8) (i : Inst) (d : Word) :
    (writeInstr m slot i d).wellFormed = true := by
  cases m <;> fin_cases slot <;> rfl

/-! ### The windows -/

theorem windowOffset_of_mem {base a : Addr} {o : Nat} (h : a.toNat = base.toNat + o) (ho : o < 16) :
    windowOffset base a = some o := by
  rw [windowOffset, if_pos (by omega)]
  congr 1
  omega

theorem windowOffset_of_not_mem {base a : Addr} (h : a.toNat < base.toNat ∨ base.toNat + 16 ≤ a.toNat) :
    windowOffset base a = none := if_neg (by omega)

/-- An address inside an instance's window selects it at its offset: no other window holds the address (decision D5). -/
theorem windowOf_of_mem {cfg : Config} {i : Inst} {a : Addr} {o : Nat} (hw : cfg.windowsFit = true)
    (h : a.toNat = (cfg.unit i).base.toNat + o) (ho : o < 16) : windowOf cfg a = some (i, o) := by
  simp only [Config.windowsFit, Bool.and_eq_true, Bool.or_eq_true, decide_eq_true_eq] at hw
  obtain ⟨⟨⟨_, apart⟩, _⟩, _⟩ := hw
  cases i with
  | i0 =>
    have own : windowOffset cfg.unit0.base a = some o := windowOffset_of_mem h ho
    rw [windowOf, own]
  | i1 =>
    have own : windowOffset cfg.unit1.base a = some o := windowOffset_of_mem h ho
    have other : windowOffset cfg.unit0.base a = none := windowOffset_of_not_mem (by
      simp only [Config.unit] at h
      omega)
    rw [windowOf, other, own]
    rfl

/-- A window lies inside the bus space, so its addresses do not wrap. -/
theorem slotBus_toNat {cfg : Config} (i : Inst) (slot : Fin 8) (hw : cfg.windowsFit = true) :
    (slotBus cfg i slot).toNat = (cfg.unit i).base.toNat + 2 * slot
      ∧ (slotBus cfg i slot + 1).toNat = (cfg.unit i).base.toNat + (2 * slot + 1) := by
  simp only [Config.windowsFit, Bool.and_eq_true, Bool.or_eq_true, decide_eq_true_eq] at hw
  obtain ⟨⟨_, top0⟩, top1⟩ := hw
  have top : (cfg.unit i).base.toNat + 16 ≤ 2 ^ 22 := by cases i <;> assumption
  have hs := slot.isLt
  constructor
  · rw [slotBus, BitVec.toNat_add, BitVec.toNat_ofNat]
    omega
  · rw [slotBus, BitVec.toNat_add, BitVec.toNat_add, BitVec.toNat_ofNat, show (1 : Addr).toNat = 1 from rfl]
    omega

section

variable {s : State} {i : Inst} {a : Addr} {o : Nat} {write : Bool} {operand : List Byte}

/-- A word access at an even offset forms the record of its slot, in the mode in force (rules R76, R79). -/
theorem busAccess_even {slot : Fin 8} (h : windowOf s.cfg a = some (i, 2 * slot.val)) :
    busAccess s a false write operand
      = .record (accessCode (s.ctl i).mode write slot :: instByte i :: operand) := by
  have even : (2 * slot.val % 2 == 1) = false := by simp
  have half : 2 * slot.val / 2 = slot.val := by omega
  simp only [busAccess, h, even, half, Bool.false_or, Bool.false_eq_true, if_false]

/-- A byte access, and any access at an odd offset, is refused (rule R61). -/
theorem busAccess_bad {b : Bool} (h : windowOf s.cfg a = some (i, o)) (hb : b = true ∨ o % 2 = 1) :
    busAccess s a b write operand = .badAccess := by
  have bad : (b || o % 2 == 1) = true := by simpa using hb
  simp only [busAccess, h, bad, if_true]

theorem step_of_fetch {x : Input} {rest : List Input} {f : Fetched} (hf : s.fault = none)
    (hc : coordinatorOk s = true) (hx : fetchInput s x = f) :
    step (s.setInputs (x :: rest)) = runFetched f (s.setInputs rest) := by
  have same : fetchInput (s.setInputs (x :: rest)) x = fetchInput s x := by cases x <;> rfl
  have sound : step (s.setInputs (x :: rest)) = runInputs (s.setInputs (x :: rest)) := step_of_sound hf hc
  rw [sound, runInputs_cons rfl, same, hx]
  rfl

end

/-- Settles O4: the address selects the instance and the slot, and the record formed there decodes to the slot's
operation. -/
theorem busAccess_runs : Obligations.BusAccess := by
  intro s i slot d b rest hf hc hw a m
  obtain ⟨even, odd⟩ := slotBus_toNat i slot hw
  have hs := slot.isLt
  have atEven : windowOf s.cfg a = some (i, 2 * slot.val) := windowOf_of_mem hw even (by omega)
  have atOdd : windowOf s.cfg (a + 1) = some (i, 2 * slot.val + 1) := windowOf_of_mem hw odd (by omega)
  have oddOffset : (2 * slot.val + 1) % 2 = 1 := by omega
  have run : ∀ {x : Input} {op : Instr}, fetchInput s x = .record (encode op) → op.wellFormed = true →
      step (s.setInputs (x :: rest)) = runInstr op (s.setInputs rest) := fun hx hop => by
    rw [step_of_fetch hf hc hx, runFetched, runRecord_of_decode (decode_encode hop)]
  have bad : ∀ {x : Input}, fetchInput s x = .badAccess →
      step (s.setInputs (x :: rest)) = .next ((s.setInputs rest).addRefusal .byteAccess) :=
    fun hx => step_of_fetch hf hc hx
  refine ⟨run ?_ (readInstr_wellFormed m slot i), run ?_ (writeInstr_wellFormed m slot i d), bad ?_, bad ?_, bad ?_, bad ?_⟩
  · rw [encode_readInstr]; exact busAccess_even atEven
  · rw [encode_writeInstr]; exact busAccess_even atEven
  · exact busAccess_bad atEven (.inl rfl)
  · exact busAccess_bad atEven (.inl rfl)
  · exact busAccess_bad atOdd (.inr oddOffset)
  · exact busAccess_bad atOdd (.inr oddOffset)

/-! ### The reset of a CSR write -/

/-- Clearing a request where the coordinator's invariant holds leaves the other instance's alone pending (rule R193). -/
theorem clrInt_of_coordinatorOk {i : Inst} {s : State} (h : coordinatorOk s = true) :
    clrInt i s = (onCtl i (·.setPending false) s).setCoord (s.ctl i.other).pending.toNat (s.ctl i.other).pending := by
  obtain ⟨count, line⟩ := (coordinatorOk_iff s).1 h
  have both : s.count = (s.ctl i).pending.toNat + (s.ctl i.other).pending.toNat := by
    rw [count]
    cases i
    · rfl
    · exact Nat.add_comm _ _
  have positive : ∀ b : Bool, decide (0 < b.toNat) = b := by decide
  rcases clrInt_spec i s with ⟨hp, e⟩ | ⟨hp, e⟩ <;> rw [e]
  · have idle : onCtl i (·.setPending false) s = s := by rw [← hp]; cases i <;> rfl
    rw [hp, Bool.toNat_false, Nat.zero_add] at both
    rw [both, positive] at line
    rw [idle, ← both, ← line]
    rfl
  · rw [both, hp, Bool.toNat_true, Nat.add_sub_cancel_left, positive]

/-- The state a full reset leaves, where the coordinator's invariant holds (rule R217). -/
theorem resetState_eq {i : Inst} {s : State} (h : coordinatorOk s = true) :
    resetState i s = ((s.setCtl i ((resetCtl s.cfg i (s.ctl i)).setPending false)).setCoord
      (s.ctl i.other).pending.toNat (s.ctl i.other).pending).addEvent (.filter i [] false false) := by
  rw [resetState, clrInt_of_coordinatorOk (onCtl_coordinatorOk rfl h), onCtl_onCtl, onCtl_ctl_other]
  rfl

theorem csrEdges_coordinatorOk {i : Inst} {set clr : Word} {s : State} (h : coordinatorOk s = true) :
    coordinatorOk (csrEdges i set clr s) = true := by
  refine onCtl_coordinatorOk ?_ (csrChange_coordinatorOk h)
  obtain ⟨t, _, e⟩ := sanityEdgeCtl_eq s.cfg (s.ctl i).classic.csr (csrAfter (s.ctl i).classic.csr set clr)
    ((csrChange i set clr s).ctl i)
  rw [receiverEdgeCtl_eq, e]
  rfl

/-- A reset gives the registers, the sanity timer, the subscription and the request that a CSR write touches values of
its own. -/
theorem resetCtl_csrWritten (cfg : Config) (i : Inst) (set clr : Word) (p : Bool) (c : Ctl) :
    (resetCtl cfg i (csrWritten set clr p c)).setPending false = (resetCtl cfg i c).setPending false := by
  obtain ⟨t, _, e⟩ := sanityEdgeCtl_eq cfg c.classic.csr (csrAfter c.classic.csr set clr)
    ((c.setCsr (csrAfter c.classic.csr set clr)).setPending p)
  rw [csrWritten, receiverEdgeCtl_eq, e]
  rfl

/-- A reset discards the edges of the CSR write it ends (rule R229). -/
theorem resetState_csrEdges {i : Inst} {set clr : Word} {s : State} (h : coordinatorOk s = true) :
    resetState i (csrEdges i set clr s) = resetState i s := by
  have ok := csrEdges_coordinatorOk (i := i) (set := set) (clr := clr) h
  obtain ⟨p, n, l, e⟩ := csrEdges_eq i set clr s
  rw [e] at ok ⊢
  rw [resetState_eq ok, resetState_eq h, State.setCoord_ctl, State.setCoord_ctl, onCtl_ctl_same, onCtl_ctl_other,
    State.setCoord_cfg, onCtl_cfg, resetCtl_csrWritten]
  cases i <;> rfl

/-! ### A CSR write that takes SR to 0 -/

/-- A bit that a write sets and clears takes the data's (rule R82). -/
theorem csrWrite_getLsbD {csr d : Word} {n : Nat} (hrw : Csr.rwMask.getLsbD n = true)
    (hw : Csr.w1cMask.getLsbD n = false) (hni : Csr.niMask.getLsbD n = false) :
    (csrAfter csr (csrSetMask d) (csrClrMask d)).getLsbD n = d.getLsbD n := by
  have hn : n < 16 := Nat.lt_of_not_le fun h => by rw [BitVec.getLsbD_of_ge _ _ h] at hrw; cases hrw
  have ni : (if d.getLsbD Csr.XI then Csr.niMask else 0).getLsbD n = false := by
    split
    · exact hni
    · exact BitVec.getLsbD_zero
  simp only [csrAfter, csrSetMask, csrClrMask, BitVec.getLsbD_and, BitVec.getLsbD_or, BitVec.getLsbD_not, hrw, hw, ni, hn,
    decide_true]
  cases csr.getLsbD n <;> cases d.getLsbD n <;> rfl

/-- A write leaves RL (rules R25, R82). -/
theorem csrWrite_rl (csr d : Word) :
    (csrAfter csr (csrSetMask d) (csrClrMask d)).getLsbD Csr.RL = csr.getLsbD Csr.RL := by
  have noSet : (csrSetMask d).getLsbD Csr.RL = false := by
    rw [csrSetMask, BitVec.getLsbD_and, show Csr.rwMask.getLsbD Csr.RL = false from by decide, Bool.and_false]
  exact csrAfter_getLsbD_of_untouched noSet (csrClrMask_list d (.inl rfl))

theorem exec_writeInstr_csr {m : Mode} (hm : m ≠ .turbo) {i : Inst} {d : Word} {s : State}
    (h : (s.ctl i).mode = m) : exec (writeInstr m 7 i d) s = runOp (writeCsr i d) s := by
  have arm : exec (writeInstr m 7 i d) s = inMode m i (writeCsr i d) s := by
    cases m with
    | legacy | compatible => rfl
    | turbo => exact absurd rfl hm
  rw [arm, inMode, if_pos h]

/-- RE rises in this write, with the receive list valid and something queued: the write starts a receive walk. -/
abbrev startsRxWalk (c : Ctl) (d : Word) : Prop :=
  c.classic.csr.getLsbD Csr.RE = false ∧ d.getLsbD Csr.RE = true ∧ c.classic.csr.getLsbD Csr.RL = false
    ∧ c.queue.readq ≠ []

/-- A write that takes SR from 1 to 0: its edges, the walk where it starts one, and then the reset. -/
theorem writeCsr_of_srFalls {i : Inst} {d : Word} {s : State} (hs : (s.ctl i).classic.csr.getLsbD Csr.SR = true)
    (hd : d.getLsbD Csr.SR = false) :
    writeCsr i d s = (if startsRxWalk (s.ctl i) d then rxDispatch i >>= fun _ => resetFull i else resetFull i)
      (csrEdges i (csrSetMask d) (csrClrMask d) s) := by
  have sr := csrWrite_getLsbD (csr := (s.ctl i).classic.csr) (d := d) (n := Csr.SR) (by decide) (by decide) (by decide)
  have re := csrWrite_getLsbD (csr := (s.ctl i).classic.csr) (d := d) (n := Csr.RE) (by decide) (by decide) (by decide)
  have walks : (rises Csr.RE (s.ctl i).classic.csr
      (csrAfter (s.ctl i).classic.csr (csrSetMask d) (csrClrMask d))
      && !(csrAfter (s.ctl i).classic.csr (csrSetMask d) (csrClrMask d)).getLsbD Csr.RL
      && !(s.ctl i).queue.readq.isEmpty) = true ↔ startsRxWalk (s.ctl i) d := by
    rw [rises, re, csrWrite_rl]
    simp only [startsRxWalk, Bool.and_eq_true, Bool.not_eq_true', List.isEmpty_eq_false_iff, and_assoc]
  have falls : falls Csr.SR (s.ctl i).classic.csr
      (csrAfter (s.ctl i).classic.csr (csrSetMask d) (csrClrMask d)) = true := by
    rw [Machine.falls, sr, hs, hd]
    rfl
  rw [writeCsr, csrSetClr, op_bind_ok (getCtl_apply i s)]
  simp only [walks, falls, if_true]
  rw [op_bind_ok (change_apply _ _)]

/-- Settles O15: without a walk the reset discards the edges; with one it follows where the walk goes on. -/
theorem csrResetWrite : Obligations.CsrResetWrite := by
  intro s i m d hm hmode hc hs hd c walks
  have write := writeCsr_of_srFalls hs hd
  rw [exec_writeInstr_csr hm hmode]
  refine ⟨fun hn => ?_, fun hw t => ⟨fun hok => ?_, fun e herr => ?_⟩⟩
  · rw [if_neg hn] at write
    rw [runOp_of_ok write, resetState_csrEdges hc]
  · rw [if_pos hw, op_bind_ok hok] at write
    exact runOp_of_ok write
  · rw [if_pos hw, op_bind_error herr] at write
    exact runOp_of_error write

end Sys2Proof.Machine
end

section
/-! Guest memory under every step, and the block's accesses to it (rules R55, R57, R58, R65, R69). -/

namespace Sys2Proof.Machine

variable {s t : State}

/-! ### Properties that every step keeps -/

/-- What a fetched input comes to keeps every property that no change outside the instances, and no change of an
instance, breaks. -/
theorem runFetched_keeps {P : State → Prop} (ho : KeptOutside P) (hc : ∀ j f s, P s → P (onCtl j f s)) {f : Fetched}
    (h : runFetched f s = .next t) (hs : P s) : P t := by
  have settled_keeps : ∀ op, P (settled op s) := by
    intro op
    unfold settled
    split
    · exact landList_keeps ho.putByte ho.setConcurrent hs
    · exact hs
  cases f with
  | record r =>
    simp only [runFetched, runRecord] at h
    split at h
    next op _ =>
      simp only [runInstr] at h
      split at h
      · cases h
      · exact exec_keeps ho (fun j _ => hc j) h (settled_keeps op)
    · cases h
  | badAccess => cases h; exact ho.addRefusal _ _ hs
  | elsewhere => cases h; exact hs
  | driver a bytes => cases h; exact driverState_keeps ho.putByte hs
  | later w => cases h; exact ho.setConcurrent _ _ hs

/-- A step keeps every such property that taking an input off keeps too. -/
theorem step_keeps_outside {P : State → Prop} (ho : KeptOutside P) (hc : ∀ j f s, P s → P (onCtl j f s))
    (hi : ∀ s v, P s → P (s.setInputs v)) (h : step s = .next t) (hs : P s) : P t := by
  cases hf : s.fault with
  | some r => rw [step_of_fault hf] at h; cases h
  | none =>
    cases hk : coordinatorOk s with
    | false => rw [step_of_brokenCoordinator hf hk] at h; cases h; exact ho.setFault _ _ hs
    | true =>
      rw [step_of_sound hf hk] at h
      cases hx : s.inputs with
      | nil => rw [runInputs_nil hx] at h; cases h; exact hs
      | cons x rest => rw [runInputs_cons hx] at h; exact runFetched_keeps ho hc h (hi _ _ hs)

theorem keptOutside_memoryOk : KeptOutside State.MemoryOk where
  setCoord _ _ _ h := h
  setFault _ _ h := h
  addRefusal _ _ h := h
  nextDraw _ h := h
  setYield _ _ h := h
  putByte _ _ _ h := State.putByte_memoryOk h
  setConcurrent _ _ h := h
  addTrace _ _ h := h
  addEvent _ _ h := h

theorem onCtl_memoryOk {i : Inst} {f : Ctl → Ctl} (h : s.MemoryOk) : (onCtl i f s).MemoryOk := by
  rw [State.MemoryOk, onCtl_mem, onCtl_cfg]
  exact h

/-- Settles O48: guest memory lies outside the instances, and a byte write keeps it canonical and reached. -/
theorem stepKeepsMemory : Obligations.StepKeepsMemory := fun _ _ hs h =>
  step_keeps_outside keptOutside_memoryOk (fun _ _ _ => onCtl_memoryOk) (fun _ _ h => h) h hs

/-! ### When the driver's writes land (rule R69) -/

theorem State.putByte_setConcurrent (s : State) (v : List DriverWrite) (a : Addr) (b : Byte) :
    (s.setConcurrent v).putByte a b = (s.putByte a b).setConcurrent v := by
  unfold State.putByte
  rw [State.setConcurrent_cfg]
  split <;> rfl

theorem driverState_setConcurrent (bs : List Byte) (a : Addr) (v : List DriverWrite) (s : State) :
    driverState a bs (s.setConcurrent v) = (driverState a bs s).setConcurrent v := by
  induction bs generalizing a s with
  | nil => rfl
  | cons b rest ih => rw [driverState, State.putByte_setConcurrent, ih, driverState]

/-- Landing a list of writes sets the list of those to come itself. -/
theorem landDue_setConcurrent (l v : List DriverWrite) (s : State) : landDue l (s.setConcurrent v) = landDue l s := by
  induction l generalizing s with
  | nil => rfl
  | cons w rest ih =>
    rw [landDue, landDue, driverState_setConcurrent, ih]
    rfl

theorem observe_cons {w : DriverWrite} {rest : List DriverWrite} (h : s.concurrent = w :: rest) :
    observe s = if w.wait = 0 then observe ((driverState w.addr w.bytes s).setConcurrent rest)
      else s.setConcurrent ({ w with wait := w.wait - 1 } :: rest) := by
  have later : observe ((driverState w.addr w.bytes s).setConcurrent rest)
      = landDue rest (driverState w.addr w.bytes s) := landDue_setConcurrent rest rest _
  rw [later, observe, h, landDue]

/-! ### What a successful access answers -/

section

variable {i : Inst} {ctx : NxmCtx} {a : Addr}

theorem wordReady_iff {cfg : Config} :
    wordReady cfg a = true ↔ a.getLsbD 0 = false ∧ backed cfg a = true ∧ backed cfg (a + 1) = true := by
  simp [wordReady, wordBacked]

theorem readWord_ready (h : wordReady s.cfg a = true) : readWord i ctx a s = .ok ((observe s).wordAt a) (observe s) := by
  obtain ⟨even, low, high⟩ := wordReady_iff.1 h
  rcases readWord_cases i ctx a s with ⟨odd, _⟩ | ⟨_, e⟩ | ⟨_, unbacked, _⟩
  · rw [even] at odd; cases odd
  · exact e
  · rw [wordBacked, low, high] at unbacked; cases unbacked

theorem readByte_backed (h : backed s.cfg a = true) : readByte i ctx a s = .ok ((observe s).byteAt a) (observe s) := by
  rcases readByte_cases i ctx a s with ⟨_, e⟩ | ⟨unbacked, _⟩
  · exact e
  · rw [h] at unbacked; cases unbacked

theorem writeWord_ok {v : Word} (h : writeWord i ctx a v s = .ok () t) :
    wordReady s.cfg a = true ∧ t = (observe s).wroteWord a v := by
  rcases writeWord_cases i ctx a v s with ⟨_, e⟩ | ⟨ready, e⟩ | ⟨_, _, e⟩ <;> rw [e] at h <;> cases h
  exact ⟨ready, rfl⟩

theorem writeByte_ok {b : Byte} (hq : s.Quiet) (h : writeByte i ctx a b s = .ok () t) :
    backed s.cfg a = true ∧ t = (s.putByte a b).addTrace (.byte a b) := by
  rcases writeByte_cases i ctx a b s with ⟨ok, e⟩ | ⟨_, e⟩ <;> rw [e] at h <;> cases h
  exact ⟨ok, by rw [observe_of_nil hq]⟩

/-- A run of bytes that is written whole was backed. -/
theorem writeBytes_ok {bs : List Byte} (hq : s.Quiet) (h : writeBytes i ctx a bs s = .ok () t) :
    bytesBacked s.cfg a bs.length = true ∧ t = State.wroteBytes a bs s := by
  induction bs generalizing a s with
  | nil => cases h; exact ⟨rfl, rfl⟩
  | cons b rest ih =>
    rw [writeBytes, op_bind] at h
    cases hb : writeByte i ctx a b s with
    | error e u => rw [hb] at h; cases h
    | ok x u =>
      rw [hb] at h
      obtain ⟨ok, rfl⟩ := writeByte_ok hq hb
      obtain ⟨backed, rfl⟩ := ih (by simpa [State.Quiet] using hq) h
      refine ⟨?_, rfl⟩
      rw [List.length_cons, bytesBacked, ok, Bool.true_and]
      simpa using backed

end

/-! ### What a write changes: the bytes at its addresses, where the bus map keeps them -/

section

variable {a x : Addr} {v : Word}

theorem State.byteAt_addTrace (s : State) (e : MemEvent) (x : Addr) : (s.addTrace e).byteAt x = s.byteAt x := rfl

theorem State.byteAt_wroteWord (x : Addr) : (s.wroteWord a v).byteAt x = (s.putWord a v).byteAt x := rfl

theorem State.byteAt_putWord_high (h : Memory.wf s.mem = true) (hb : backed s.cfg (a + 1) = true) :
    (s.putWord a v).byteAt (a + 1) = highByte v := by
  rw [State.putWord, State.byteAt_putByte (State.putByte_wf h), State.putByte_cfg, if_pos ⟨rfl, hb⟩]

theorem State.byteAt_putWord_low (h : Memory.wf s.mem = true) (hb : backed s.cfg a = true)
    (hd : locate s.cfg a ≠ locate s.cfg (a + 1)) : (s.putWord a v).byteAt a = lowByte v := by
  rw [State.putWord, State.byteAt_putByte_other (State.putByte_wf h) (by simpa using hd), State.byteAt_putByte h,
    if_pos ⟨rfl, hb⟩]

theorem State.wroteWord_wf (h : Memory.wf s.mem = true) : Memory.wf (s.wroteWord a v).mem = true := State.putWord_wf h

/-- `t` differs from `s` in guest memory and in the record of the block's writes only. -/
def State.OnlyMemory (s t : State) : Prop := t = { s with mem := t.mem, trace := t.trace }

namespace State.OnlyMemory

theorem refl (s : State) : s.OnlyMemory s := rfl

theorem trans {s t u : State} (hst : s.OnlyMemory t) (htu : t.OnlyMemory u) : s.OnlyMemory u := by
  rw [State.OnlyMemory] at hst htu
  rw [State.OnlyMemory, htu, hst]

theorem putByte (s : State) (a : Addr) (b : Byte) : s.OnlyMemory (s.putByte a b) := by
  rw [State.OnlyMemory, State.putByte_eq]
  rfl

theorem addTrace (s : State) (e : MemEvent) : s.OnlyMemory (s.addTrace e) := rfl

theorem wroteWord (s : State) (a : Addr) (v : Word) : s.OnlyMemory (s.wroteWord a v) :=
  ((putByte s _ _).trans (putByte _ _ _)).trans (addTrace _ _)

theorem wroteBytes (bs : List Byte) (a : Addr) (s : State) : s.OnlyMemory (State.wroteBytes a bs s) := by
  induction bs generalizing a s with
  | nil => exact refl s
  | cons b rest ih => exact ((putByte s a b).trans (addTrace _ _)).trans (ih _ _)

end State.OnlyMemory

theorem State.wroteWord_trace (s : State) (a : Addr) (v : Word) :
    (s.wroteWord a v).trace = s.trace ++ [.word a v] := by
  rw [State.wroteWord, State.addTrace_trace, State.putWord_trace]

theorem addr_succ (a : Addr) (j : Nat) : a + 1 + BitVec.ofNat 22 j = a + BitVec.ofNat 22 (j + 1) := by
  rw [Nat.add_comm j 1, BitVec.ofNat_add, BitVec.add_assoc]
  rfl

theorem addr_zero (a : Addr) : a + BitVec.ofNat 22 0 = a := BitVec.add_zero a

/-- A byte kept elsewhere than a run of written bytes is what it was. -/
theorem State.byteAt_wroteBytes_other {bs : List Byte} (h : Memory.wf s.mem = true)
    (hx : ∀ j < bs.length, locate s.cfg x ≠ locate s.cfg (a + BitVec.ofNat 22 j)) :
    (State.wroteBytes a bs s).byteAt x = s.byteAt x := by
  induction bs generalizing a s with
  | nil => rfl
  | cons b rest ih =>
    have first : locate s.cfg x ≠ locate s.cfg a := addr_zero a ▸ hx 0 (Nat.succ_pos _)
    have wf : Memory.wf ((s.putByte a b).addTrace (.byte a b)).mem = true := State.putByte_wf h
    rw [State.wroteBytes, ih wf, State.byteAt_addTrace, State.byteAt_putByte_other h first]
    intro j hj
    rw [State.addTrace_cfg, State.putByte_cfg, addr_succ]
    exact hx (j + 1) (Nat.succ_lt_succ hj)

/-- A byte of a run stands after the run is written, where no later one of the run is kept in its place. -/
theorem State.byteAt_wroteBytes {bs : List Byte} (h : Memory.wf s.mem = true)
    (hb : bytesBacked s.cfg a bs.length = true) {j : Nat} (hj : j < bs.length)
    (hd : ∀ k < bs.length, j < k →
      locate s.cfg (a + BitVec.ofNat 22 j) ≠ locate s.cfg (a + BitVec.ofNat 22 k)) :
    (State.wroteBytes a bs s).byteAt (a + BitVec.ofNat 22 j) = bs.getD j 0 := by
  induction bs generalizing a s j with
  | nil => cases hj
  | cons b rest ih =>
    rw [List.length_cons, bytesBacked, Bool.and_eq_true] at hb
    have wf : Memory.wf ((s.putByte a b).addTrace (.byte a b)).mem = true := State.putByte_wf h
    cases j with
    | zero =>
      rw [addr_zero] at hd ⊢
      rw [State.wroteBytes, State.byteAt_wroteBytes_other wf, State.byteAt_addTrace, State.byteAt_putByte h,
        if_pos ⟨rfl, hb.1⟩]
      · rfl
      · intro k hk
        rw [State.addTrace_cfg, State.putByte_cfg, addr_succ]
        exact hd (k + 1) (Nat.succ_lt_succ hk) (Nat.succ_pos k)
    | succ j =>
      rw [← addr_succ, State.wroteBytes, ih wf (by simpa using hb.2) (Nat.lt_of_succ_lt_succ hj)]
      · rfl
      · intro k hk hjk
        rw [State.addTrace_cfg, State.putByte_cfg, addr_succ, addr_succ]
        exact hd (k + 1) (Nat.succ_lt_succ hk) (Nat.succ_lt_succ hjk)

end

/-- Settles O46: the reads and the landing of the driver's writes are the lemmas above; a write that succeeds is the
state's own byte writes. -/
theorem memoryAccesses : Obligations.MemoryAccesses := by
  intro s i ctx a
  refine ⟨readWord_ready, readByte_backed, observe_of_nil, fun w rest => observe_cons, fun v t hwf h => ?_,
    fun bs t hwf hq h => ?_⟩
  · obtain ⟨ready, rfl⟩ := writeWord_ok h
    obtain ⟨_, low, high⟩ := wordReady_iff.1 ready
    have wf := observe_wf hwf
    rw [← observe_cfg] at low high
    refine ⟨fun hd => ⟨?_, ?_⟩, fun x h0 h1 => ?_, ?_⟩
    · exact State.byteAt_putWord_low wf low (by simpa using hd)
    · exact State.byteAt_putWord_high wf high
    · exact State.byteAt_putWord_other wf (by simpa using h0) (by simpa using h1)
    · have only : (observe s).OnlyMemory ((observe s).wroteWord a v) := .wroteWord _ _ _
      rwa [State.OnlyMemory, State.wroteWord_trace, observe_trace] at only
  · obtain ⟨backed, rfl⟩ := writeBytes_ok hq h
    exact ⟨fun j hj hd => State.byteAt_wroteBytes hwf backed hj hd, fun x hx => State.byteAt_wroteBytes_other hwf hx,
      State.OnlyMemory.wroteBytes bs a s⟩

end Sys2Proof.Machine
end

section
/-! A list base at an odd address: the walk's first access is refused, and the step ends there (rules R59, R109, R111,
R192). -/

namespace Sys2Proof.Machine

variable {i : Inst} {s : State}

theorem readWord_of_odd {ctx : NxmCtx} {a : Addr} (h : a.getLsbD 0 = true) :
    readWord i ctx a s = .error (.refused .oddAddress) (s.addRefusal .oddAddress) := if_pos h

theorem writeWord_of_odd {ctx : NxmCtx} {a : Addr} {v : Word} (h : a.getLsbD 0 = true) :
    writeWord i ctx a v s = .error (.refused .oddAddress) (s.addRefusal .oddAddress) := if_pos h

/-- The first access of a fetch is at the descriptor's own address, whether it writes the flag word or reads. -/
theorem fetchDesc_of_odd {p : Addr} (h : p.getLsbD 0 = true) :
    fetchDesc i p s = .error (.refused .oddAddress) (s.addRefusal .oddAddress) := by
  rw [fetchDesc, op_bind_ok (getCfg_apply s)]
  cases s.cfg.writeFlagWord with
  | true => exact op_bind_error (writeWord_of_odd h)
  | false => exact op_bind_error (readWord_of_odd h)

theorem addrOf_getLsbD_zero (d lo : Word) : (addrOf d lo).getLsbD 0 = lo.getLsbD 0 := by
  rw [addrOf, BitVec.getLsbD_append, if_pos (by decide)]

theorem rxPass_of_odd {c : Ctl} (h : c.classic.rptr.getLsbD 0 = true) :
    rxPass i () (s.setCtl i c) = .error (.refused .oddAddress) ((s.setCtl i c).addRefusal .oddAddress) := by
  rw [rxPass, op_bind_ok (getCtl_apply i _), State.setCtl_ctl_same]
  exact op_bind_error (fetchDesc_of_odd h)

theorem txPass_of_odd {c : Ctl} (h : c.classic.xptr.getLsbD 0 = true) :
    txPass i () (s.setCtl i c) = .error (.refused .oddAddress) ((s.setCtl i c).addRefusal .oddAddress) := by
  rw [txPass, op_bind_ok (getCtl_apply i _), State.setCtl_ctl_same]
  exact op_bind_error (fetchDesc_of_odd h)

/-- A classic walk whose first pass ends the step, under any bound that lets it be made. -/
theorem classicWalk_of_first_error {pass : Unit → Op (Pass Unit)} {t : State} {e : Stop}
    (hc : s.cfg.chainCap ≠ some 0) (h : pass () s = .error e t) : classicWalk i pass s = .error e t := by
  rw [classicWalk, op_bind_ok (getCfg_apply s)]
  cases hcap : s.cfg.chainCap with
  | none => exact freeWalk_of_first_error h
  | some n =>
    cases n with
    | zero => exact absurd hcap hc
    | succ n => exact op_bind_error h

theorem handshakes_eq_false {m : Mode} {d : Word} (hmode : (s.ctl i).mode = m)
    (h : ¬((s.unit i).type = .turbo ∧ m = .compatible ∧ (s.ctl i).classic.rbdlLo = s.cfg.handshakeLo
      ∧ d = s.cfg.handshakeHi)) : handshakes s.cfg i (s.ctl i) d = false := by
  rw [Bool.eq_false_iff, ne_eq, handshakes_iff, hmode]
  exact h

/-- Settles O20: both list writes set the pointer and validate the list, and the walk they start is refused at once. -/
theorem oddListRefused : Obligations.OddListRefused := by
  intro s i m d hm hmode hr hcap
  have classic : (s.ctl i).mode ≠ .turbo := hmode ▸ hm
  have capped : ∀ c, (s.setCtl i c).cfg.chainCap ≠ some 0 := fun c => (s.setCtl_cfg i c).symm ▸ hcap
  refine ⟨fun odd noShake => ?_, fun odd idle => ?_⟩
  · have hh := handshakes_eq_false hmode noShake
    rw [exec_writeInstr_rbdlHi hm hmode]
    exact runOp_of_error ((writeRbdlHi_starts classic hr hh).trans
      (classicWalk_of_first_error (capped _) (rxPass_of_odd ((addrOf_getLsbD_zero d _).trans odd))))
  · rw [exec_writeInstr_xbdlHi hm hmode]
    exact runOp_of_error ((writeXbdlHi_starts classic hr idle).trans
      (classicWalk_of_first_error (capped _) (txPass_of_odd ((addrOf_getLsbD_zero d _).trans odd))))

end Sys2Proof.Machine
end

section
/-! An instance's state and its interrupt request as the coordinator's invariant lets them stand together: what a change of
the instance, a change of its CSR, the turbo latch and a write of guest memory do to `State.withRequest` (rules R193 to
R198). -/

namespace Sys2Proof.Machine

variable {i : Inst} {c : Ctl} {p : Bool}

/-! ### What the state holds -/

@[simp] theorem State.withRequest_ctl (t : State) (i : Inst) (c : Ctl) (p : Bool) :
    (t.withRequest i c p).ctl i = c.setPending p := by
  rw [State.withRequest, State.setCoord_ctl, State.setCtl_ctl_same]
  rfl

@[simp] theorem State.withRequest_cfg (t : State) (i : Inst) (c : Ctl) (p : Bool) :
    (t.withRequest i c p).cfg = t.cfg := by cases i <;> rfl

@[simp] theorem State.withRequest_mem (t : State) (i : Inst) (c : Ctl) (p : Bool) :
    (t.withRequest i c p).mem = t.mem := by cases i <;> rfl

@[simp] theorem State.withRequest_concurrent (t : State) (i : Inst) (c : Ctl) (p : Bool) :
    (t.withRequest i c p).concurrent = t.concurrent := by cases i <;> rfl

@[simp] theorem State.withRequest_draws (t : State) (i : Inst) (c : Ctl) (p : Bool) :
    (t.withRequest i c p).draws = t.draws := by cases i <;> rfl

/-- The coordinator's invariant says that the state is of this form. -/
theorem State.eq_withRequest {s : State} (h : coordinatorOk s = true) (i : Inst) :
    s.withRequest i (s.ctl i) (s.ctl i).pending = s := by
  obtain ⟨count, line⟩ := (coordinatorOk_iff s).1 h
  have positive : ∀ a b : Bool, (a || b) = decide (0 < a.toNat + b.toNat) := by decide
  have both : s.count = (s.ctl i).pending.toNat + (s.ctl i.other).pending.toNat := by
    rw [count]
    cases i
    · rfl
    · exact Nat.add_comm _ _
  show (s.setCtl i (s.ctl i)).setCoord _ _ = s
  rw [State.setCtl_self, positive, ← both, ← line]
  rfl

/-- An instance replaced by one with its request. -/
theorem State.setCtl_eq_withRequest {s : State} (h : coordinatorOk s = true) (hp : c.pending = (s.ctl i).pending) :
    s.setCtl i c = s.withRequest i c (s.ctl i).pending := by
  have same : c.setPending (s.ctl i).pending = c := hp ▸ rfl
  conv_lhs => rw [← State.eq_withRequest h i]
  rw [State.withRequest, State.setCoord_setCtl, State.setCtl_setCtl, ← State.setCoord_setCtl]
  show _ = (s.setCtl i (c.setPending (s.ctl i).pending)).setCoord _ _
  rw [same]

/-! ### Changes of the instance and of its request -/

theorem onCtl_withRequest {f : Ctl → Ctl} (hf : f (c.setPending p) = (f c).setPending p) (t : State) :
    onCtl i f (t.withRequest i c p) = t.withRequest i (f c) p := by
  rw [onCtl, State.withRequest_ctl, hf, State.withRequest, ← State.setCoord_setCtl, State.setCtl_setCtl]
  rfl

theorem onCtl_setPending_withRequest (t : State) (b : Bool) :
    onCtl i (·.setPending b) (t.withRequest i c p)
      = (t.withRequest i c b).setCoord (t.withRequest i c p).count (t.withRequest i c p).line := by
  cases i <;> rfl

theorem setInt_withRequest (t : State) : setInt i (t.withRequest i c p) = t.withRequest i c true := by
  rcases setInt_spec i (t.withRequest i c p) with ⟨h, e⟩ | ⟨h, e⟩ <;>
    rw [State.withRequest_ctl, Ctl.setPending_pending] at h <;> subst h <;> rw [e]
  rw [onCtl_setPending_withRequest]
  have count : (t.withRequest i c false).count + 1 = (t.withRequest i c true).count :=
    (Nat.add_comm _ 1).trans (congrArg (1 + ·) (Nat.zero_add _))
  rw [count]
  cases i <;> rfl

theorem clrInt_withRequest (t : State) : clrInt i (t.withRequest i c p) = t.withRequest i c false := by
  have positive : ∀ b : Bool, decide (0 < b.toNat) = b := by decide
  rcases clrInt_spec i (t.withRequest i c p) with ⟨h, e⟩ | ⟨h, e⟩ <;>
    rw [State.withRequest_ctl, Ctl.setPending_pending] at h <;> subst h <;> rw [e]
  rw [onCtl_setPending_withRequest]
  have count : (t.withRequest i c true).count - 1 = (t.ctl i.other).pending.toNat := Nat.add_sub_cancel_left 1 _
  rw [count, positive, State.withRequest, State.withRequest, Bool.toNat_false, Nat.zero_add, Bool.false_or]
  cases i <;> rfl

theorem requestAfter_eq (old new : Word) (p : Bool) :
    requestAfter old new p = if intEdge old new then true else if intWithdraw new then false else p := by
  show (if intEdge old new then true else _) = _
  congr 1
  rw [intWithdraw]
  cases new.getLsbD Csr.IE
  · rfl
  · simp only [Bool.not_true, Bool.false_or, Bool.false_eq_true, if_false]

theorem intClassic_withRequest (old new : Word) (t : State) :
    intClassic i old new (t.withRequest i c p) = t.withRequest i c (requestAfter old new p) := by
  rw [requestAfter_eq, intClassic]
  split
  · exact setInt_withRequest t
  · split
    · exact clrInt_withRequest t
    · rfl

/-- A change of the CSR and of the request that follows from it (rule R197). -/
theorem csrChange_withRequest (set clr : Word) (t : State) :
    csrChange i set clr (t.withRequest i c p)
      = t.withRequest i (c.setCsr (csrAfter c.classic.csr set clr))
          (requestAfter c.classic.csr (csrAfter c.classic.csr set clr) p) := by
  unfold csrChange
  simp only [State.withRequest_ctl, Ctl.setPending_classic]
  rw [onCtl_withRequest rfl, intClassic_withRequest]

/-- The latch set, and the request exactly where it is enabled (rules R169, R198). -/
theorem latchTurbo_withRequest (t : State) :
    latchTurbo i (t.withRequest i c p) = t.withRequest i (c.setTlatch true) c.turbo.icrEn := by
  rw [latchTurbo, onCtl_withRequest rfl]
  rcases intTurbo_cases i (t.withRequest i (c.setTlatch true) p) with ⟨⟨enabled, _⟩, e⟩ | ⟨idle, e⟩ <;> rw [e]
  · have enabled : c.turbo.icrEn = true := by simpa using enabled
    rw [setInt_withRequest, enabled]
  · have disabled : c.turbo.icrEn = false := by simpa using idle
    rw [clrInt_withRequest, disabled]

theorem csrAfter_set (csr m : Word) : csrAfter csr m 0 = csr ||| m := by
  show (csr ||| m) &&& ~~~0#16 = _
  rw [BitVec.not_zero, BitVec.and_allOnes]

/-- Two CSR changes, the second of other bits than IE, XI and RI, ask for what the first does. -/
theorem requestAfter_trans {old mid new : Word} (p : Bool)
    (h : ∀ n ∈ [Csr.IE, Csr.XI, Csr.RI], new.getLsbD n = mid.getLsbD n) :
    requestAfter mid new (requestAfter old mid p) = requestAfter old new p := by
  have hIE : new.getLsbD 6 = mid.getLsbD 6 := h Csr.IE (by simp)
  have hXI : new.getLsbD 7 = mid.getLsbD 7 := h Csr.XI (by simp)
  have hRI : new.getLsbD 15 = mid.getLsbD 15 := h Csr.RI (by simp)
  simp only [requestAfter, hIE, hXI, hRI]
  cases mid.getLsbD 6 <;> cases mid.getLsbD 7 <;> cases mid.getLsbD 15 <;> simp

/-! ### Guest memory beside it -/

theorem State.putByte_withRequest (t : State) (a : Addr) (b : Byte) :
    (t.withRequest i c p).putByte a b = (t.putByte a b).withRequest i c p := by
  unfold State.putByte
  rw [State.withRequest_cfg, State.withRequest_mem]
  cases locate t.cfg a <;> cases i <;> rfl

theorem State.addTrace_withRequest (t : State) (e : MemEvent) :
    (t.withRequest i c p).addTrace e = (t.addTrace e).withRequest i c p := by cases i <;> rfl

theorem State.nextDraw_withRequest (t : State) :
    (t.withRequest i c p).nextDraw = t.nextDraw.withRequest i c p := by cases i <;> rfl

theorem State.wroteWord_withRequest (t : State) (a : Addr) (v : Word) :
    (t.withRequest i c p).wroteWord a v = (t.wroteWord a v).withRequest i c p := by
  rw [State.wroteWord, State.putWord, State.putByte_withRequest, State.putByte_withRequest, State.addTrace_withRequest]
  rfl

theorem State.wroteBytes_withRequest (bs : List Byte) (a : Addr) (t : State) :
    State.wroteBytes a bs (t.withRequest i c p) = (State.wroteBytes a bs t).withRequest i c p := by
  induction bs generalizing a t with
  | nil => rfl
  | cons b rest ih => rw [State.wroteBytes, State.putByte_withRequest, State.addTrace_withRequest, ih, State.wroteBytes]

theorem State.wrotePair_withRequest (t : State) (a : Addr) (sw1 sw2 : Word) :
    (t.withRequest i c p).wrotePair a sw1 sw2 = (t.wrotePair a sw1 sw2).withRequest i c p := by
  rw [State.wrotePair, State.wroteWord_withRequest, State.addTrace_withRequest, State.wroteWord_withRequest]
  rfl

theorem State.fetched_withRequest (t : State) (a : Addr) :
    (t.withRequest i c p).fetched a = (t.fetched a).withRequest i c p := by
  unfold State.fetched
  rw [State.withRequest_cfg, State.wroteWord_withRequest]
  split <;> rfl

theorem State.byteAt_withRequest (t : State) (a : Addr) : (t.withRequest i c p).byteAt a = t.byteAt a := by
  rw [State.byteAt, State.withRequest_cfg, State.withRequest_mem]
  rfl

theorem State.wordAt_withRequest (t : State) (a : Addr) : (t.withRequest i c p).wordAt a = t.wordAt a := by
  rw [State.wordAt, State.byteAt_withRequest, State.byteAt_withRequest]
  rfl

theorem State.descAt_withRequest (t : State) (a : Addr) : (t.withRequest i c p).descAt a = t.descAt a :=
  State.descAt_congr (t.byteAt_withRequest ·) a

section

variable {t : State} {a : Addr} {ctx : NxmCtx}

theorem fetchDesc_withRequest (h : descReady t.cfg a = true) (hq : t.Quiet) :
    fetchDesc i a (t.withRequest i c p) = .ok ((t.fetched a).descAt a) ((t.fetched a).withRequest i c p) := by
  rw [fetchDesc_of_ready (by simpa using h) ((t.withRequest_concurrent i c p).trans hq), State.fetched_withRequest,
    State.descAt_withRequest]

theorem readWord_withRequest (h : wordReady t.cfg a = true) (hq : t.Quiet) :
    readWord i ctx a (t.withRequest i c p) = .ok (t.wordAt a) (t.withRequest i c p) := by
  rw [readWord_of_ready (by simpa using h) ((t.withRequest_concurrent i c p).trans hq), State.wordAt_withRequest]

theorem writeWord_withRequest {v : Word} (h : wordReady t.cfg a = true) (hq : t.Quiet) :
    writeWord i ctx a v (t.withRequest i c p) = .ok () ((t.wroteWord a v).withRequest i c p) := by
  rw [writeWord_of_ready (by simpa using h) ((t.withRequest_concurrent i c p).trans hq), State.wroteWord_withRequest]

theorem writeBytes_withRequest {bs : List Byte} (h : bytesBacked t.cfg a bs.length = true) (hq : t.Quiet) :
    writeBytes i ctx a bs (t.withRequest i c p) = .ok () ((State.wroteBytes a bs t).withRequest i c p) := by
  rw [writeBytes_of_backed (by simpa using h) ((t.withRequest_concurrent i c p).trans hq), State.wroteBytes_withRequest]

theorem statusPair_withRequest {sw1 sw2 : Word} (h1 : wordReady t.cfg (a + 8) = true)
    (h2 : wordReady t.cfg (a + 10) = true) (hq : t.Quiet) :
    statusPair i ctx a sw1 sw2 (t.withRequest i c p) = .ok () ((t.wrotePair a sw1 sw2).withRequest i c p) := by
  rw [statusPair_of_ready (by simpa using h1) (by simpa using h2) ((t.withRequest_concurrent i c p).trans hq),
    State.wrotePair_withRequest]

end

end Sys2Proof.Machine
end

section
/-! Transport completions (rules R155, R172, R183): the message's status, its count, and the walk that goes on after it. -/

namespace Sys2Proof.Machine

variable {i : Inst} {c : Ctl} {p : Bool} {s t : State}

/-! ### Counting a completed message -/

/-- Counting a message touches the statistics, and a success the sanity timer, reloaded as its mode does. -/
theorem countTx_of_classic (hm : c.mode ≠ .turbo) (status : TxStatus) :
    countTx status c
      = { c with
          timers := if status = .ok then classicReload c.classic.csr c.setup.sanitySel c.timers else c.timers
          stats :=
            { c.stats with
              tx := c.stats.tx + (if status = .ok then 1 else 0)
              txfail := c.stats.txfail + (if status = .fail then 1 else 0) } } := by
  cases status with
  | fail => rfl
  | ok =>
    have classic : (c.setStats (txStats .ok c.stats)).mode ≠ .turbo := hm
    rw [countTx, sanityReloadCtl, if_neg classic, classicReload, if_pos rfl, Ctl.setStats_classic]
    cases c.classic.csr.getLsbD Csr.SE <;> rfl

theorem countTx_of_turbo (hm : c.mode = .turbo) (status : TxStatus) :
    countTx status c
      = { c with
          timers := if status = .ok then turboReload c.init.timeout c.timers else c.timers
          stats :=
            { c.stats with
              tx := c.stats.tx + (if status = .ok then 1 else 0)
              txfail := c.stats.txfail + (if status = .fail then 1 else 0) } } := by
  cases status with
  | fail => rfl
  | ok =>
    have turbo : (c.setStats (txStats .ok c.stats)).mode = .turbo := hm
    rw [countTx, sanityReloadCtl, if_pos turbo, turboReload, if_pos rfl, Ctl.setStats_init]
    by_cases h : 0 < c.init.timeout.toNat
    · rw [if_pos h, if_pos h]; rfl
    · rw [if_neg h, if_neg h]; rfl

theorem countTx_setPending (status : TxStatus) : countTx status (c.setPending p) = (countTx status c).setPending p := by
  by_cases hm : c.mode = .turbo
  · have hp : (c.setPending p).mode = .turbo := hm
    rw [countTx_of_turbo hm, countTx_of_turbo hp]
    rfl
  · have hp : (c.setPending p).mode ≠ .turbo := hm
    rw [countTx_of_classic hm, countTx_of_classic hp]
    rfl

/-! ### The status words -/

/-- The status words of a completed message, the timing value of a failed one drawn (rules R90, R155). -/
def txWords (status : TxStatus) (s : State) : Word × Word :=
  match status with
  | .ok => (s.cfg.txOkSw1, s.cfg.txOkSw2)
  | .fail => (s.cfg.txFailSw1, timingWord (Config.freeTiming s.draws))

/-- The state after the draw that a status takes. -/
def State.drawnFor (status : TxStatus) (s : State) : State :=
  match status with
  | .ok => s
  | .fail => s.nextDraw

theorem txStatus_apply (status : TxStatus) (s : State) :
    txStatus status s = .ok (txWords status s) (s.drawnFor status) := by cases status <;> rfl

theorem txWords_withRequest (status : TxStatus) (t : State) : txWords status (t.withRequest i c p) = txWords status t := by
  cases status with
  | ok => rw [txWords, State.withRequest_cfg, txWords]
  | fail => rw [txWords, State.withRequest_cfg, State.withRequest_draws, txWords]

theorem State.drawnFor_withRequest (status : TxStatus) (t : State) :
    (t.withRequest i c p).drawnFor status = (t.drawnFor status).withRequest i c p := by
  cases status with
  | ok => rfl
  | fail => exact t.nextDraw_withRequest

@[simp] theorem State.drawnFor_cfg (status : TxStatus) (t : State) : (t.drawnFor status).cfg = t.cfg := by
  cases status <;> rfl

@[simp] theorem State.drawnFor_concurrent (status : TxStatus) (t : State) :
    (t.drawnFor status).concurrent = t.concurrent := by cases status <;> rfl

/-- A timing value is free in 14 bits but for 0 (rules R90, R155). -/
theorem timingWord_range (v : BitVec 14) : timingWord v ≠ 0 ∧ (timingWord v).toNat < 2 ^ 14 := by
  have nonzero : (if v = 0 then 1 else v) ≠ 0 := by split <;> simp_all
  have small := (if v = 0 then 1 else v).isLt
  have value : (timingWord v).toNat = (if v = 0 then 1 else v).toNat := by
    rw [timingWord, BitVec.toNat_setWidth]
    omega
  refine ⟨fun h => nonzero (BitVec.eq_of_toNat_eq ?_), value ▸ small⟩
  rw [← value, h]
  rfl

/-! ### A classic completion -/

theorem getLsbD_or_of_not_mem {csr m : Word} {n : Nat} (h : m.getLsbD n = false) :
    (csr ||| m).getLsbD n = csr.getLsbD n := by rw [BitVec.getLsbD_or, h, Bool.or_false]

/-- Setting other bits than IE, XI and RI after a change asks for what the change does. -/
theorem requestAfter_or {old mid m : Word} (p : Bool) (h : ∀ n ∈ [Csr.IE, Csr.XI, Csr.RI], m.getLsbD n = false) :
    requestAfter mid (mid ||| m) (requestAfter old mid p) = requestAfter old (mid ||| m) p :=
  requestAfter_trans p fun n hn => getLsbD_or_of_not_mem (h n hn)

/-- Setting a bit that is set. -/
theorem or_twoPow_of_getLsbD {csr : Word} {n : Nat} (h : csr.getLsbD n = true) : csr ||| BitVec.twoPow 16 n = csr := by
  apply BitVec.eq_of_getLsbD_eq
  intro k hk
  rw [BitVec.getLsbD_or, BitVec.getLsbD_twoPow]
  by_cases e : n = k
  · subst e; rw [h]; rfl
  · rw [decide_eq_false e, Bool.and_false, Bool.or_false]

theorem State.withRequest_setCtl (t : State) : (t.withRequest i c p).setCtl i (c.setPending p) = t.withRequest i c p := by
  rw [← State.withRequest_ctl t i c p, State.setCtl_self]

/-- A walk's pass over an invalid descriptor: it is fetched, and the list's bit is set. -/
theorem ListWalk.atInvalid_withRequest {pass : Unit → Op (Pass Unit)} {ptr : Classic → Addr}
    {setPtr : Ctl → Addr → Ctl} {endMask : Word} (w : ListWalk i pass ptr setPtr endMask) {b : Addr} (hq : t.Quiet)
    (hb : ptr c.classic = b) (ready : descReady t.cfg b = true) (invalid : descValid ((t.fetched b).descAt b) = false) :
    pass () (t.withRequest i c p) = .ok (.ended ()) ((t.fetched b).withRequest i
      (c.setCsr (c.classic.csr ||| endMask)) (requestAfter c.classic.csr (c.classic.csr ||| endMask) p)) := by
  have h := w.atInvalid (s := t.withRequest i c p) (c := c.setPending p) (b := b)
    ((t.withRequest_concurrent i c p).trans hq) hb (by rwa [State.withRequest_cfg])
    (by rwa [State.fetched_withRequest, State.descAt_withRequest])
  rwa [State.withRequest_setCtl, State.fetched_withRequest, State.withRequest_setCtl, csrChange_withRequest,
    csrAfter_set] at h

theorem rxDispatch_of_rl (h : (s.ctl i).classic.csr.getLsbD Csr.RL = true) : rxDispatch i s = .ok () s := by
  rw [rxDispatch, op_bind_ok (getCtl_apply i s), if_pos h]
  rfl

theorem txDispatch_of_xl (h : (s.ctl i).classic.csr.getLsbD Csr.XL = true) : txDispatch i s = .ok () s := by
  rw [txDispatch, op_bind_ok (getCtl_apply i s), h]
  rfl

/-- A transmit walk that finds an invalid descriptor at once. -/
theorem txDispatch_ends_withRequest {b : Addr} (hq : t.Quiet) (hb : c.classic.xptr = b)
    (xl : c.classic.csr.getLsbD Csr.XL = false) (idle : c.tx.txpend = none) (hcap : t.cfg.chainCap ≠ some 0)
    (ready : descReady t.cfg b = true) (invalid : descValid ((t.fetched b).descAt b) = false) :
    txDispatch i (t.withRequest i c p) = .ok () ((t.fetched b).withRequest i
      (c.setCsr (c.classic.csr ||| Csr.xlMask)) (requestAfter c.classic.csr (c.classic.csr ||| Csr.xlMask) p)) := by
  rw [txDispatch, op_bind_ok (getCtl_apply i _), State.withRequest_ctl, if_neg]
  · exact classicWalk_of_first (by rwa [State.withRequest_cfg])
      ((txListWalk i).atInvalid_withRequest hq hb ready invalid)
  · simp only [Ctl.setPending_classic, Ctl.setPending_tx, xl, idle, Option.isSome_none, Bool.or_false,
      Bool.false_eq_true, not_false_eq_true]

/-- An instance whose message has completed: counted, XI set, the pointer past the message (rule R155). -/
def txCompletedCtl (status : TxStatus) (c : Ctl) : Ctl :=
  ((countTx status c).setCsr (c.classic.csr ||| Csr.xiMask)).setXptr (c.classic.xptr + descBytes)

theorem countTx_classic (status : TxStatus) : (countTx status c).classic = c.classic := by
  by_cases hm : c.mode = .turbo
  · rw [countTx_of_turbo hm]
  · rw [countTx_of_classic hm]

theorem txCompletedCtl_csr (status : TxStatus) (c : Ctl) :
    (txCompletedCtl status c).classic.csr = c.classic.csr ||| Csr.xiMask := rfl

/-- The completion of a message, no receive walk possible. -/
theorem txComplete_withRequest {status : TxStatus} (hq : t.Quiet) (rl : c.classic.csr.getLsbD Csr.RL = true)
    (h1 : wordReady t.cfg (c.classic.xptr + 8) = true) (h2 : wordReady t.cfg (c.classic.xptr + 10) = true) :
    txComplete i status (t.withRequest i c p)
      = .ok () (((t.drawnFor status).wrotePair c.classic.xptr (txWords status t).1 (txWords status t).2).withRequest i
          (txCompletedCtl status c) (requestAfter c.classic.csr (c.classic.csr ||| Csr.xiMask) p)) := by
  have quiet : (t.drawnFor status).Quiet := (t.drawnFor_concurrent status).trans hq
  rw [← State.drawnFor_cfg status t] at h1 h2
  rw [txComplete, op_bind_ok (getCtl_apply i _), State.withRequest_ctl, op_bind_ok (txStatus_apply _ _),
    txWords_withRequest, State.drawnFor_withRequest]
  simp only [Ctl.setPending_classic]
  rw [op_bind_ok (statusPair_withRequest h1 h2 quiet), op_bind_ok (changeCtl_apply i _ _),
    onCtl_withRequest (countTx_setPending status), op_bind_ok (csrDevice_apply i _ _ _), csrChange_withRequest, csrAfter_set,
    op_bind_ok (changeCtl_apply i _ _), onCtl_withRequest rfl, countTx_classic]
  refine rxDispatch_of_rl ?_
  rw [State.withRequest_ctl]
  exact (getLsbD_or_of_not_mem (by decide)).trans rl

theorem exec_txdone (i : Inst) (status : TxStatus) {w : TxPend} (hw : (s.ctl i).tx.txpend = some w)
    (hg : w.gen = (s.ctl i).tx.gen) : exec (.txdone i status w.gen) s = runOp (completed i status) s := by
  have matching : tagMatches (s.ctl i) w.gen = true := by simp [tagMatches, hw, hg]
  have e : transmitDone i status w.gen s = completed i status s := by
    rw [transmitDone, op_bind_ok (getCtl_apply i s), if_pos matching]
  show Host.Outcome.next (endState (transmitDone i status w.gen) s) = .next (endState (completed i status) s)
  rw [endState, endState, e]

/-- The state after the transmit walk that follows a completion, the next descriptor at `b`: a list marked invalid is
not walked. -/
def State.walkedOn (xl : Bool) (b : Addr) (t : State) : State := if xl = true then t else t.fetched b

/-- The list ends after the completed message: it is marked invalid, or an invalid descriptor is next. -/
def State.ListEnds (xl : Bool) (b : Addr) (t : State) : Prop := xl = true ∨ descValid ((t.walkedOn xl b).descAt b) = false

section

variable {status : TxStatus}

/-- The transmit walk after a completion: XL is set at its end, and the request is what XI asked for. -/
theorem txDispatch_completed {b : Addr} (hq : t.Quiet) (hb : c.classic.xptr + descBytes = b)
    (idle : c.tx.txpend = none)
    (list : c.classic.csr.getLsbD Csr.XL = true ∨ t.cfg.chainCap ≠ some 0 ∧ descReady t.cfg b = true)
    (ends : t.ListEnds (c.classic.csr.getLsbD Csr.XL) b) :
    txDispatch i (t.withRequest i (txCompletedCtl status c) (requestAfter c.classic.csr (c.classic.csr ||| Csr.xiMask) p))
      = .ok () ((t.walkedOn (c.classic.csr.getLsbD Csr.XL) b).withRequest i
          ((txCompletedCtl status c).setCsr (c.classic.csr ||| 0x0090))
          (requestAfter c.classic.csr (c.classic.csr ||| 0x0090) p)) := by
  have xi_xl : (0x0090 : Word) = Csr.xiMask ||| Csr.xlMask := by decide
  have xl_bit : Csr.xlMask = BitVec.twoPow 16 Csr.XL := by decide
  have kept : (c.classic.csr ||| Csr.xiMask).getLsbD Csr.XL = c.classic.csr.getLsbD Csr.XL :=
    getLsbD_or_of_not_mem (by decide)
  rw [xi_xl, ← BitVec.or_assoc]
  cases xl : c.classic.csr.getLsbD Csr.XL with
  | true =>
    rw [xl_bit, or_twoPow_of_getLsbD (kept.trans xl)]
    refine txDispatch_of_xl ?_
    rw [State.withRequest_ctl]
    exact kept.trans xl
  | false =>
    rw [xl] at list ends
    obtain ⟨hcap, ready⟩ := list.resolve_left Bool.false_ne_true
    have invalid := ends.resolve_left Bool.false_ne_true
    have pending : (countTx status c).tx.txpend = none := by
      by_cases hm : c.mode = .turbo
      · rw [countTx_of_turbo hm]; exact idle
      · rw [countTx_of_classic hm]; exact idle
    have walk := txDispatch_ends_withRequest (i := i) (c := txCompletedCtl status c)
      (p := requestAfter c.classic.csr (c.classic.csr ||| Csr.xiMask) p) hq hb (kept.trans xl) pending hcap ready invalid
    rw [txCompletedCtl_csr, requestAfter_or p (by decide)] at walk
    exact walk

/-- A completion in a classic mode that no receive walk follows and after which the list ends. -/
theorem exec_txdone_classic {w : TxPend} (hm : (s.ctl i).mode ≠ .turbo) (hc : coordinatorOk s = true) (hq : s.Quiet)
    (hw : (s.ctl i).tx.txpend = some w) (hg : w.gen = (s.ctl i).tx.gen)
    (rl : (s.ctl i).classic.csr.getLsbD Csr.RL = true) {x b : Addr} (hx : (s.ctl i).classic.xptr = x)
    (hb : x + descBytes = b) (h1 : wordReady s.cfg (x + 8) = true) (h2 : wordReady s.cfg (x + 10) = true) {xl : Bool}
    (hxl : (s.ctl i).classic.csr.getLsbD Csr.XL = xl)
    (list : xl = true ∨ s.cfg.chainCap ≠ some 0 ∧ descReady s.cfg b = true)
    (ends : ((s.drawnFor status).wrotePair x (txWords status s).1 (txWords status s).2).ListEnds xl b) :
    exec (.txdone i status w.gen) s
      = .next ((((s.drawnFor status).wrotePair x (txWords status s).1 (txWords status s).2).walkedOn xl b).withRequest i
          ((txCompletedCtl status ((s.ctl i).setTxpend none)).setCsr ((s.ctl i).classic.csr ||| 0x0090))
          (requestAfter (s.ctl i).classic.csr ((s.ctl i).classic.csr ||| 0x0090) (s.ctl i).pending)) := by
  subst hx hxl
  have start : onCtl i (·.setTxpend none) s
      = s.withRequest i ((s.ctl i).setTxpend none) (s.ctl i).pending := State.setCtl_eq_withRequest hc rfl
  have classic : (((s.ctl i).setTxpend none).setPending (s.ctl i).pending).mode ≠ .turbo := hm
  rw [exec_txdone i status hw hg]
  refine runOp_of_ok ?_
  rw [completed, op_bind_ok (changeCtl_apply i _ s), start, op_bind_ok (getCtl_apply i _), State.withRequest_ctl,
    if_neg classic, op_bind_ok (txComplete_withRequest (c := (s.ctl i).setTxpend none) hq rl h1 h2)]
  exact txDispatch_completed (c := (s.ctl i).setTxpend none) (by simpa [State.Quiet] using hq) hb rfl (by simpa using list)
    ends

end

/-- Settles O25: a success writes the configured words, a failure a drawn timing value. -/
theorem completionClassic : Obligations.CompletionClassic := by
  intro s i w hm hc hq hw hg rl c x new h1 h2 list next ends t
  have counted : ∀ status, countTx status ((s.ctl i).setTxpend none) = _ :=
    countTx_of_classic (c := (s.ctl i).setTxpend none) hm
  have complete := fun status => exec_txdone_classic (status := status) hm hc hq hw hg rl rfl rfl h1 h2 rfl list
  obtain ⟨nonzero, small⟩ := timingWord_range (Config.freeTiming s.draws)
  refine ⟨fun ended => ?_, _, nonzero, small, fun ended => ?_⟩
  · have done := complete .ok ended
    rw [txCompletedCtl, counted] at done
    exact done
  · have done := complete .fail ended
    rw [txCompletedCtl, counted] at done
    exact done

end Sys2Proof.Machine
end

section
/-! The ring walks (rules R167 to R172): a slot is returned after its status, the walk ends at a slot that is not the
device's, and a batch latches one request. -/

namespace Sys2Proof.Machine

variable {i : Inst} {c : Ctl} {p : Bool} {s t : State} {l : TurboLayout}

/-! ### Returning a slot -/

/-- Guest memory after the slot at `a` is returned with a status, the ownership word of the next one at `owner` (rule
R167). -/
def State.slotReturned (l : TurboLayout) (a owner : Addr) (status : Word) (t : State) : State :=
  let u := t.wroteWord (offsetAddr a l.slotStatus) status
  (u.addTrace .barrier).wroteWord (offsetAddr a l.slotOwner) (slotOwnerWord l (slotOwned l (u.wordAt owner)))

@[simp] theorem State.slotReturned_cfg (a owner : Addr) (status : Word) (t : State) :
    (t.slotReturned l a owner status).cfg = t.cfg := by
  rw [State.slotReturned, State.wroteWord_cfg, State.addTrace_cfg, State.wroteWord_cfg]

@[simp] theorem State.slotReturned_concurrent (a owner : Addr) (status : Word) (t : State) :
    (t.slotReturned l a owner status).concurrent = t.concurrent := by
  rw [State.slotReturned, State.wroteWord_concurrent, State.addTrace_concurrent, State.wroteWord_concurrent]

theorem slotDone_withRequest {base a owner : Addr} {n idx : Nat} {status : Word} (hl : t.cfg.layout = l) (hq : t.Quiet)
    (ha : slotAddr l base idx = a) (ho : offsetAddr (slotAddr l base ((idx + 1) % n)) l.slotOwner = owner)
    (h1 : wordReady t.cfg (offsetAddr a l.slotStatus) = true) (h2 : wordReady t.cfg (offsetAddr a l.slotOwner) = true)
    (h3 : wordReady t.cfg owner = true) :
    slotDone i base n idx status (t.withRequest i c p)
      = .ok () ((t.slotReturned l a owner status).withRequest i c p) := by
  subst hl ha ho
  have quiet : ∀ b v, (t.wroteWord b v).Quiet := fun b v => (t.wroteWord_concurrent b v).trans hq
  rw [slotDone, op_bind_ok (getCfg_apply _), State.withRequest_cfg]
  rw [op_bind_ok (writeWord_withRequest h1 hq),
    op_bind_ok (readWord_withRequest (by rwa [State.wroteWord_cfg]) (quiet _ _)), op_bind_ok (barrier_apply _),
    State.addTrace_withRequest]
  exact writeWord_withRequest (by rwa [State.addTrace_cfg, State.wroteWord_cfg]) (quiet _ _)

/-! ### The transmit ring after a completion -/

/-- A walk that finds the next transmit slot not the device's at once, after a slot was returned. -/
theorem ringTx_of_unowned {n : Nat} {owner : Addr} (hl : t.cfg.layout = l) (hq : t.Quiet)
    (started : c.turbo.ringsStarted = true) (idle : c.tx.txpend = none)
    (ho : offsetAddr (slotAddr l c.turbo.txRingBase c.turbo.txIdx) l.slotOwner = owner)
    (ready : wordReady t.cfg owner = true) (unowned : slotOwned l (t.wordAt owner) = false) :
    ringTx i (n + 1) (t.withRequest i c p) = .ok () (t.withRequest i (c.setTlatch true) c.turbo.icrEn) := by
  subst hl ho
  have pass : ringTxPass i (n + 1) (t.withRequest i c p) = .ok (.ended (n + 1)) (t.withRequest i c p) := by
    rw [ringTxPass, op_bind_ok (getCtl_apply i _), op_bind_ok (getCfg_apply _), State.withRequest_cfg,
      State.withRequest_ctl]
    simp only [Ctl.setPending_turbo]
    rw [op_bind_ok (readWord_withRequest ready hq), unowned]
    rfl
  rw [ringTx, op_bind_ok (getCtl_apply i _), State.withRequest_ctl, if_pos]
  · rw [op_bind_ok (freeWalk_of_first pass), batchDone, if_pos (Nat.succ_pos n), change_apply, latchTurbo_withRequest]
  · simp only [Ctl.setPending_turbo, Ctl.setPending_tx, started, idle, Option.isSome_none, Bool.not_false, Bool.and_true]

/-- Settles O35: the slot is returned, and the walk that follows ends at the next one, which is not the device's. -/
theorem completionTurbo : Obligations.CompletionTurbo := by
  intro s i w status hm hc hq hw hg started c l a k owner s1 s2 h1 h2 h3 unowned1 unowned2
  have start : onCtl i (·.setTxpend none) s = s.withRequest i (c.setTxpend none) c.pending :=
    State.setCtl_eq_withRequest hc rfl
  have turbo : ((c.setTxpend none).setPending c.pending).mode = .turbo := hm
  have returned : s.slotReturned l a owner (slotTxStatus l (decide (status = .fail))) = s2 := by
    rw [State.slotReturned]
    simp only [slotTxStatus]
    rw [unowned1]
    rfl
  have counted := countTx_of_turbo (c := c.setTxpend none) hm status
  have walk := ringTx_of_unowned (i := i) (n := 0) (t := s2) (p := c.pending) (owner := owner)
    (c := ((countTx status (c.setTxpend none)).setTxIdx k).setTxpend none) (l := l) (by rw [← returned]; simp; rfl)
    (by rw [← returned]; simpa [State.Quiet] using hq) (by rw [counted]; exact started) rfl (by rw [counted]; rfl)
    (by rw [← returned]; simpa using h3) unowned2
  rw [exec_txdone i status hw hg]
  refine runOp_of_ok ?_
  rw [completed, op_bind_ok (changeCtl_apply i _ s), start, op_bind_ok (getCtl_apply i _), State.withRequest_ctl,
    if_pos turbo, turboTxComplete, op_bind_ok (getCtl_apply i _), op_bind_ok (getCfg_apply _), State.withRequest_ctl,
    State.withRequest_cfg]
  simp only [Ctl.setPending_turbo, Ctl.setTxpend_turbo]
  rw [op_bind_ok (slotDone_withRequest (l := l) (a := a) (owner := owner) rfl hq rfl rfl h1 h2 h3),
    returned, op_bind_ok (changeCtl_apply i _ _), onCtl_withRequest (countTx_setPending status),
    op_bind_ok (changeCtl_apply i _ _), onCtl_withRequest rfl, op_bind_ok (changeCtl_apply i _ _), onCtl_withRequest rfl]
  refine walk.trans ?_
  rw [counted]
  rfl

end Sys2Proof.Machine
end

section
/-! The delivery of a queued item (rules R147 to R149, R170): what a segment takes from the queue, and a receive slot filled
with it. -/

namespace Sys2Proof.Machine

variable {i : Inst} {c : Ctl} {p : Bool} {s t : State} {l : TurboLayout} {q : Item}

/-! ### What a segment takes -/

theorem segment_eq_nextBytes (q : Item) (len : Nat) : segment q len = nextBytes q len := by
  rw [segment, nextBytes, ← List.length_drop, ← List.take_eq_take_min]

theorem segmentLast_eq_endsItem (q : Item) (len : Nat) : segmentLast q len = endsItem q len := by
  rw [segmentLast, endsItem, segment_eq_nextBytes]

/-- The one item of the queue delivered: it leaves the queue and is counted, or stays with its offset moved on. -/
theorem deliverCtl_of_single (h : c.queue.readq = [q]) (len : Nat) :
    deliverCtl len c = { c with
      queue := { readq := restOf q len, loss := 0 }
      stats := { c.stats with rx := c.stats.rx + (if endsItem q len then 1 else 0) } } := by
  rw [deliverCtl, h]
  simp only [segmentLast_eq_endsItem, segment_eq_nextBytes, restOf]
  cases endsItem q len <;> rfl

theorem deliverCtl_setPending (len : Nat) : deliverCtl len (c.setPending p) = (deliverCtl len c).setPending p := by
  cases h : c.queue.readq with
  | nil => simp only [deliverCtl, Ctl.setPending_queue, h]
  | cons q rest =>
    simp only [deliverCtl, Ctl.setPending_queue, h]
    cases segmentLast q len <;> rfl

/-! ### Filling a receive slot -/

/-- Guest memory after the slot at `a` is filled with a segment of item `q` and returned, the ownership word of the next
one at `owner` (rules R167, R170). -/
def State.slotFilled (l : TurboLayout) (a owner : Addr) (q : Item) (lost : Bool) (t : State) : State :=
  let len := slotLen l (t.slotWord a l.slotLenFlags)
  ((State.wroteBytes (t.slotBuffer a) (nextBytes q len) t).wroteWord (offsetAddr a l.slotLenFlags)
    (slotLenWord l len (decide (q.offset = 0)) (endsItem q len))).slotReturned l a owner
      (slotRxStatus l (nextBytes q len).length lost)

@[simp] theorem State.slotFilled_cfg (a owner : Addr) (lost : Bool) (t : State) :
    (t.slotFilled l a owner q lost).cfg = t.cfg := by
  rw [State.slotFilled, State.slotReturned_cfg, State.wroteWord_cfg, State.wroteBytes_cfg]

@[simp] theorem State.slotFilled_concurrent (a owner : Addr) (lost : Bool) (t : State) :
    (t.slotFilled l a owner q lost).concurrent = t.concurrent := by
  rw [State.slotFilled, State.slotReturned_concurrent, State.wroteWord_concurrent, State.wroteBytes_concurrent]

theorem slotReady_iff {cfg : Config} {a : Addr} : slotReady cfg a = true ↔
    wordReady cfg (offsetAddr a cfg.layout.slotAddrLo) = true ∧ wordReady cfg (offsetAddr a cfg.layout.slotAddrHi) = true
      ∧ wordReady cfg (offsetAddr a cfg.layout.slotLenFlags) = true
      ∧ wordReady cfg (offsetAddr a cfg.layout.slotStatus) = true
      ∧ wordReady cfg (offsetAddr a cfg.layout.slotOwner) = true := by
  simp only [slotReady, List.all_cons, List.all_nil, Bool.and_eq_true, and_true]

section

variable {a owner : Addr} {n : Nat}

theorem ringRxFill_withRequest (hl : t.cfg.layout = l) (hq : t.Quiet)
    (ha : slotAddr l c.turbo.rxRingBase c.turbo.rxIdx = a)
    (ho : offsetAddr (slotAddr l c.turbo.rxRingBase ((c.turbo.rxIdx + 1) % t.cfg.rxRingN)) l.slotOwner = owner)
    (ready : slotReady t.cfg a = true) (next : wordReady t.cfg owner = true)
    (backed : bytesBacked t.cfg (t.slotBuffer a)
      (nextBytes q (slotLen l (t.slotWord a l.slotLenFlags))).length = true) :
    ringRxFill i a (c.setPending p) q (t.withRequest i c p)
      = .ok () ((t.slotFilled l a owner q (decide (0 < c.queue.loss))).withRequest i
          ((deliverCtl (slotLen l (t.slotWord a l.slotLenFlags)) c).setRxIdx ((c.turbo.rxIdx + 1) % t.cfg.rxRingN)) p) := by
  subst hl
  obtain ⟨lo, hi, lenFlags, status, own⟩ := slotReady_iff.1 ready
  have same : ringRxFill i a (c.setPending p) q = ringRxFill i a c q := rfl
  have write := writeBytes_withRequest (i := i) (c := c) (p := p) (ctx := .ring) backed hq
  simp only [State.slotBuffer, State.slotWord] at write
  rw [same, ringRxFill, op_bind_ok (getCfg_apply _), State.withRequest_cfg]
  simp only [segment_eq_nextBytes, segmentLast_eq_endsItem]
  rw [op_bind_ok (readWord_withRequest lo hq), op_bind_ok (readWord_withRequest hi hq),
    op_bind_ok (readWord_withRequest lenFlags hq), op_bind_ok write,
    op_bind_ok (writeWord_withRequest (by rwa [State.wroteBytes_cfg])
      ((State.wroteBytes_concurrent _ _ t).trans hq)),
    op_bind_ok (slotDone_withRequest (l := t.cfg.layout) (a := a) (owner := owner)
      (by rw [State.wroteWord_cfg, State.wroteBytes_cfg])
      ((State.wroteWord_concurrent _ _ _).trans ((State.wroteBytes_concurrent _ _ t).trans hq)) ha ho
      (by rwa [State.wroteWord_cfg, State.wroteBytes_cfg]) (by rwa [State.wroteWord_cfg, State.wroteBytes_cfg])
      (by rwa [State.wroteWord_cfg, State.wroteBytes_cfg])),
    op_bind_ok (changeCtl_apply i _ _), onCtl_withRequest (deliverCtl_setPending _), changeCtl_apply, onCtl_withRequest rfl]
  rfl

/-- The pass over an owned receive slot: a segment of the head item goes into it, and the walk moves on (rule R170). -/
theorem ringRxPass_fills (hl : t.cfg.layout = l) (hq : t.Quiet) (hr : c.queue.readq = [q])
    (ha : slotAddr l c.turbo.rxRingBase c.turbo.rxIdx = a)
    (ho : offsetAddr (slotAddr l c.turbo.rxRingBase ((c.turbo.rxIdx + 1) % t.cfg.rxRingN)) l.slotOwner = owner)
    (ready : slotReady t.cfg a = true) (next : wordReady t.cfg owner = true)
    (owned : slotOwned l (t.slotWord a l.slotOwner) = true)
    (backed : bytesBacked t.cfg (t.slotBuffer a)
      (nextBytes q (slotLen l (t.slotWord a l.slotLenFlags))).length = true) :
    ringRxPass i n (t.withRequest i c p)
      = .ok (.again (n + 1)) ((t.slotFilled l a owner q (decide (0 < c.queue.loss))).withRequest i
          ((deliverCtl (slotLen l (t.slotWord a l.slotLenFlags)) c).setRxIdx ((c.turbo.rxIdx + 1) % t.cfg.rxRingN)) p) := by
  obtain ⟨_, _, _, _, own⟩ := slotReady_iff.1 ready
  have fill := ringRxFill_withRequest (i := i) (p := p) hl hq ha ho ready next backed
  subst hl ha
  rw [ringRxPass, op_bind_ok (getCtl_apply i _), op_bind_ok (getCfg_apply _), State.withRequest_cfg,
    State.withRequest_ctl]
  simp only [Ctl.setPending_turbo, Ctl.setPending_queue, hr]
  rw [op_bind_ok (readWord_withRequest own hq), if_neg (by rw [← State.slotWord, owned]; decide), op_bind_ok fill]
  rfl

/-- The pass that finds the queue empty, or the next slot not the device's. -/
theorem ringRxPass_ends (hl : t.cfg.layout = l) (hq : t.Quiet)
    (ho : offsetAddr (slotAddr l c.turbo.rxRingBase c.turbo.rxIdx) l.slotOwner = owner)
    (ready : wordReady t.cfg owner = true) (h : c.queue.readq = [] ∨ slotOwned l (t.wordAt owner) = false) :
    ringRxPass i n (t.withRequest i c p) = .ok (.ended n) (t.withRequest i c p) := by
  subst hl ho
  rw [ringRxPass, op_bind_ok (getCtl_apply i _), op_bind_ok (getCfg_apply _), State.withRequest_cfg,
    State.withRequest_ctl]
  simp only [Ctl.setPending_turbo, Ctl.setPending_queue]
  cases hr : c.queue.readq with
  | nil => rfl
  | cons q rest =>
    rw [hr] at h
    have unowned := h.resolve_left (List.cons_ne_nil q rest)
    simp only
    rw [op_bind_ok (readWord_withRequest ready hq), unowned]
    rfl

end

/-! ### A ring walk of two passes -/

/-- A ring walk that consumes one slot. -/
theorem freeWalk_of_oneSlot {pass : Nat → Op (Pass Nat)} {u : State} (h0 : pass 0 s = .ok (.again 1) t)
    (h1 : pass 1 t = .ok (.ended 1) u) (hd : sameWalk s t = false) : freeWalk i pass 0 s = .ok 1 u := by
  have e : Ends pass id (twoPoints s t) 1 :=
    { goesOn := fun n hn => by obtain rfl : n = 0 := by omega
                               exact h0
      stops := fun b v hb => by cases hb.symm.trans h1
      differ := fun m n hmn hn => by obtain ⟨rfl, rfl⟩ : m = 0 ∧ n = 1 := by omega
                                     exact hd }
  have walk := freeWalk_of_ends (i := i) e (by decide)
  have last : pass (id 1) (twoPoints s t 1) = .ok (.ended 1) u := h1
  rwa [last] at walk

/-- Two points of one walk have the same ring, queue and guest memory. -/
theorem ring_eq_of_sameWalk (h : sameWalk s t = true) (i : Inst) :
    (s.ctl i).turbo = (t.ctl i).turbo ∧ (s.ctl i).queue.readq = (t.ctl i).queue.readq
      ∧ s.mem = t.mem ∧ s.cfg = t.cfg := by
  have key : walkKey s = walkKey t := of_decide_eq_true h
  have mem := congrArg State.mem key
  have cfg := congrArg State.cfg key
  cases i with
  | i0 =>
    exact ⟨congrArg (fun k : State => k.i0.turbo) (a₁ := walkKey s) (a₂ := walkKey t) key,
      congrArg (fun k : State => k.i0.queue.readq) (a₁ := walkKey s) (a₂ := walkKey t) key, mem, cfg⟩
  | i1 =>
    exact ⟨congrArg (fun k : State => k.i1.turbo) (a₁ := walkKey s) (a₂ := walkKey t) key,
      congrArg (fun k : State => k.i1.queue.readq) (a₁ := walkKey s) (a₂ := walkKey t) key, mem, cfg⟩

theorem State.wordAt_congr (hm : s.mem = t.mem) (hc : s.cfg = t.cfg) (a : Addr) : s.wordAt a = t.wordAt a := by
  simp only [State.wordAt, State.byteAt, hm, hc]

theorem exec_tWrArqr {d : Word} (h : (s.ctl i).mode = .turbo) : exec (.tWrArqr i d) s = runOp (writeArqr i d) s :=
  if_pos h

/-- A receive request alone is the receive ring's walk. -/
theorem writeArqr_of_rrq {d : Word} (sr : d.getLsbD s.cfg.layout.arqSr = false)
    (trq : d.getLsbD s.cfg.layout.arqTrq = false) (rrq : d.getLsbD s.cfg.layout.arqRrq = true) {u : State}
    (h : ringRx i s = .ok () u) : writeArqr i d s = .ok () u := by
  rw [writeArqr, op_bind_ok (getCfg_apply s)]
  simp only [sr, trq, rrq, Bool.false_eq_true, if_false, if_true]
  rw [op_bind_ok h]
  rfl

/-- Settles O34: the first pass fills the slot and the second ends the walk; that they differ is that the item has gone,
or that the slot it finds is another, or no longer the device's. -/
theorem ringDelivered : Obligations.RingDelivered := by
  intro s i d q hm hc hq sr trq rrq started hr c l a k owner len buf bytes s1 s2 s3 s4 ready next owned backed ends
  have first := ringRxPass_fills (i := i) (n := 0) (t := s) (c := c) (p := c.pending) (l := l) (a := a) (owner := owner)
    rfl hq hr rfl rfl ready next owned backed
  rw [State.eq_withRequest hc] at first
  have delivered := deliverCtl_of_single hr len
  have quiet : s4.Quiet := (State.slotFilled_concurrent a owner _ s).trans hq
  have cfg : s4.cfg = s.cfg := State.slotFilled_cfg a owner _ s
  have second := ringRxPass_ends (i := i) (n := 1) (t := s4) (c := (deliverCtl len c).setRxIdx k) (p := c.pending) (l := l)
    (owner := owner) (congrArg _ cfg) quiet (by rw [delivered]; rfl) (by rw [cfg]; exact next) (by
      rw [delivered]
      exact ends.imp_left fun e => if_pos e)
  have differ : sameWalk s (s4.withRequest i ((deliverCtl len c).setRxIdx k) c.pending) = false := by
    by_contra same
    obtain ⟨turbo, queue, mem, config⟩ := ring_eq_of_sameWalk (Bool.not_eq_false _ ▸ same) i
    rw [State.withRequest_ctl, delivered] at turbo queue
    rw [State.withRequest_mem] at mem
    rcases ends with gone | unowned
    · have gone : restOf q len = [] := if_pos gone
      exact List.cons_ne_nil q [] (hr.symm.trans (queue.trans gone))
    · have idx : c.turbo.rxIdx = k := congrArg Turbo.rxIdx turbo
      have there : offsetAddr a l.slotOwner = owner := by
        show offsetAddr (slotAddr l c.turbo.rxRingBase c.turbo.rxIdx) _ = _
        rw [idx]
      rw [State.slotWord, there, State.wordAt_congr mem cfg.symm, unowned] at owned
      cases owned
  have walk := freeWalk_of_oneSlot (i := i) first second differ
  have ring : ringRx i s = .ok () (s4.withRequest i (((deliverCtl len c).setRxIdx k).setTlatch true)
      ((deliverCtl len c).setRxIdx k).turbo.icrEn) := by
    rw [ringRx, op_bind_ok (getCtl_apply i s), if_pos started, op_bind_ok walk, batchDone, if_pos Nat.one_pos,
      change_apply, latchTurbo_withRequest]
  have done := runOp_of_ok (writeArqr_of_rrq sr trq rrq ring)
  rw [delivered] at done
  rw [exec_tWrArqr hm]
  exact done

end Sys2Proof.Machine
end

section
/-! The receive walk over one descriptor (rules R89, R147 to R150): a segment of the queue's one item is delivered, and the
list ends after it. -/

namespace Sys2Proof.Machine

variable {i : Inst} {c : Ctl} {p : Bool} {s t : State} {q : Item} {a : Addr}

/-! ### The status words of rule R89 -/

theorem rxLengthField (n : Nat) : fieldWord 8 3 (n / 256) = BitVec.ofNat 16 n &&& 0x0700 := by
  have mask : ∀ k < 16, (0x0700 : Word).getLsbD k = (decide (8 ≤ k) && decide (k - 8 < 3)) := by decide
  apply BitVec.eq_of_getLsbD_eq
  intro k hk
  rw [BitVec.getLsbD_and, mask k hk, fieldWord, BitVec.getLsbD_ofNat, BitVec.getLsbD_ofNat, Nat.testBit_mul_two_pow,
    Nat.testBit_mod_two_pow, show (256 : Nat) = 2 ^ 8 from rfl, Nat.testBit_div_two_pow]
  by_cases h : 8 ≤ k
  · rw [Nat.sub_add_cancel h]
    simp only [h, hk, decide_true, Bool.true_and]
    exact Bool.and_comm _ _
  · simp [h]

/-- The first status word of a segment. -/
theorem rxSw1_eq (q : Item) (len : Nat) (lost : Bool) :
    rxSw1 q (segmentLast q len) lost
      = (if endsItem q len then 0 else 0xC000) ||| (if q.kind = .setupResponse then 0x2000 else 0)
        ||| (BitVec.ofNat 16 (q.bytes.length - 60) &&& 0x0700) ||| (if lost then 1 else 0) := by
  rw [rxSw1, segmentLast_eq_endsItem, rxLengthField]
  rfl

/-- The second: the length's low byte twice. -/
theorem rxSw2_eq (q : Item) :
    rxSw2 q = BitVec.ofNat 16 (q.bytes.length - 60) <<< 8 ||| (BitVec.ofNat 16 (q.bytes.length - 60) &&& 0x00FF) := by
  have mask : ∀ k < 16, (0x00FF : Word).getLsbD k = decide (k < 8) := by decide
  show wordOf (BitVec.ofNat 8 (q.bytes.length - 60)) (BitVec.ofNat 8 (q.bytes.length - 60)) = _
  apply BitVec.eq_of_getLsbD_eq
  intro k hk
  rw [wordOf, BitVec.getLsbD_append, BitVec.getLsbD_or, BitVec.getLsbD_and, mask k hk, BitVec.getLsbD_shiftLeft,
    BitVec.getLsbD_ofNat, BitVec.getLsbD_ofNat, BitVec.getLsbD_ofNat, BitVec.getLsbD_ofNat]
  by_cases h : k < 8
  · simp [h, hk]
  · have low : k - 8 < 8 := by omega
    have word : k - 8 < 16 := by omega
    simp [h, hk, low, word]

/-! ### One segment delivered -/

theorem descReady_iff {cfg : Config} : descReady cfg a = true ↔
    wordReady cfg a = true ∧ wordReady cfg (a + 2) = true ∧ wordReady cfg (a + 4) = true ∧ wordReady cfg (a + 6) = true
      ∧ wordReady cfg (a + 8) = true ∧ wordReady cfg (a + 10) = true := by
  simp only [descReady, Bool.and_eq_true, and_assoc]

/-- Guest memory after a segment of item `q` is delivered into the descriptor `d` at `a` (rules R148, R150). -/
def State.segmentWritten (a : Addr) (d : Desc) (q : Item) (lost : Bool) (t : State) : State :=
  (State.wroteBytes (descStart d) (nextBytes q (descLen d)) t).wrotePair a (rxSw1 q (segmentLast q (descLen d)) lost)
    (rxSw2 q)

/-- An instance after that: the item's segment gone, RI set, the pointer past the descriptor (rules R147, R149). -/
def rxDeliveredCtl (len : Nat) (c : Ctl) : Ctl :=
  ((deliverCtl len c).setCsr (c.classic.csr ||| Csr.riMask)).setRptr (c.classic.rptr + descBytes)

theorem deliverCtl_classic (len : Nat) (c : Ctl) : (deliverCtl len c).classic = c.classic := by
  unfold deliverCtl
  split
  · rfl
  · split <;> rfl

theorem rxDeliver_withRequest {d : Desc} {loss : Nat} (hq : t.Quiet) (ha : c.classic.rptr = a)
    (h1 : wordReady t.cfg (a + 8) = true) (h2 : wordReady t.cfg (a + 10) = true)
    (backed : bytesBacked t.cfg (descStart d) (nextBytes q (descLen d)).length = true) :
    rxDeliver i a d q loss (t.withRequest i c p)
      = .ok () ((t.segmentWritten a d q (decide (0 < loss))).withRequest i (rxDeliveredCtl (descLen d) c)
          (requestAfter c.classic.csr (c.classic.csr ||| Csr.riMask) p)) := by
  subst ha
  rw [rxDeliver, segment_eq_nextBytes, op_bind_ok (writeBytes_withRequest backed hq),
    op_bind_ok (statusPair_withRequest (by rwa [State.wroteBytes_cfg]) (by rwa [State.wroteBytes_cfg])
      ((State.wroteBytes_concurrent _ _ t).trans hq)),
    op_bind_ok (changeCtl_apply i _ _), onCtl_withRequest (deliverCtl_setPending _), op_bind_ok (csrDevice_apply i _ _ _),
    csrChange_withRequest, csrAfter_set, deliverCtl_classic, changeCtl_apply, onCtl_withRequest rfl]
  rfl

section

variable {d : Desc} (hq : t.Quiet) (ha : c.classic.rptr = a) (hd : (t.fetched a).descAt a = d)

include hq ha hd

/-- The pass over a valid descriptor with an item waiting. -/
theorem rxPass_delivers {rest : List Item} (hr : c.queue.readq = q :: rest) (ready : descReady t.cfg a = true)
    (valid : descValid d = true) (noChain : descChain d = false)
    (backed : bytesBacked t.cfg (descStart d) (nextBytes q (descLen d)).length = true) :
    rxPass i () (t.withRequest i c p)
      = .ok (.again ()) (((t.fetched a).segmentWritten a d q (decide (0 < c.queue.loss))).withRequest i
          (rxDeliveredCtl (descLen d) c) (requestAfter c.classic.csr (c.classic.csr ||| Csr.riMask) p)) := by
  obtain ⟨_, _, _, _, h1, h2⟩ := descReady_iff.1 ready
  have deliver := rxDeliver_withRequest (i := i) (p := p) (t := t.fetched a) (d := d) (loss := c.queue.loss)
    ((t.fetched_concurrent a).trans hq) ha (by rwa [State.fetched_cfg]) (by rwa [State.fetched_cfg])
    (by rwa [State.fetched_cfg])
  rw [rxPass, op_bind_ok (getCtl_apply i _), State.withRequest_ctl]
  simp only [Ctl.setPending_classic, Ctl.setPending_queue, ha, hr]
  rw [op_bind_ok (fetchDesc_withRequest ready hq), hd, valid, noChain]
  simp only [Bool.not_true, Bool.false_eq_true, if_false]
  rw [op_bind_ok deliver]
  rfl

/-- The walk that delivers the one item of the queue into the first descriptor of a list that ends after it. -/
theorem rxWalk_delivers (hcap : ∀ n, t.cfg.chainCap = some n → 1 < n) (hr : c.queue.readq = [q])
    (takes : t.takes a q (decide (0 < c.queue.loss)) = true) :
    classicWalk i (rxPass i) (t.withRequest i c p)
      = .ok () ((t.delivered a q (decide (0 < c.queue.loss))).withRequest i
          { c with
            classic := { c.classic with csr := c.classic.csr ||| 0x8020, rptr := a + 12 }
            queue := { readq := restOf q (descLen d), loss := 0 }
            stats := { c.stats with rx := c.stats.rx + (if endsItem q (descLen d) then 1 else 0) } }
          (requestAfter c.classic.csr (c.classic.csr ||| 0x8020) p)) := by
  simp only [State.takes, hd, Bool.and_eq_true, Bool.not_eq_true'] at takes
  obtain ⟨⟨⟨⟨⟨ready, nextReady⟩, valid⟩, noChain⟩, backed⟩, invalid⟩ := takes
  have first := rxPass_delivers (i := i) (p := p) hq ha hd hr ready valid noChain backed
  obtain ⟨u, written⟩ : ∃ u, u = (t.fetched a).segmentWritten a d q (decide (0 < c.queue.loss)) := ⟨_, rfl⟩
  have delivered : u.fetched (a + 12) = t.delivered a q (decide (0 < c.queue.loss)) := by
    rw [written, State.segmentWritten, rxSw1_eq, rxSw2_eq, ← hd]
    rfl
  have cfg : u.cfg = t.cfg := by
    rw [written, State.segmentWritten, State.wrotePair_cfg, State.wroteBytes_cfg, State.fetched_cfg]
  have quiet : u.Quiet := by
    rw [State.Quiet, written, State.segmentWritten, State.wrotePair_concurrent, State.wroteBytes_concurrent,
      State.fetched_concurrent, hq]
  have pointer : (rxDeliveredCtl (descLen d) c).classic.rptr = a + 12 := ha ▸ rfl
  have csr : (rxDeliveredCtl (descLen d) c).classic.csr = c.classic.csr ||| Csr.riMask := rfl
  have ri_rl : (0x8020 : Word) = Csr.riMask ||| Csr.rlMask := by decide
  have second := (rxListWalk i).atInvalid_withRequest (c := rxDeliveredCtl (descLen d) c)
    (p := requestAfter c.classic.csr (c.classic.csr ||| Csr.riMask) p) quiet pointer (by rw [cfg]; exact nextReady)
    (by rw [delivered]; exact invalid)
  rw [← written] at first
  have moved : sameWalk (t.withRequest i c p) (u.withRequest i (rxDeliveredCtl (descLen d) c)
      (requestAfter c.classic.csr (c.classic.csr ||| Csr.riMask) p)) = false := by
    by_contra same
    have classic := classic_eq_of_sameWalk (Bool.not_eq_false _ ▸ same) i
    rw [State.withRequest_ctl, State.withRequest_ctl] at classic
    have stays : a = a + 12 := ha.symm.trans ((congrArg Classic.rptr classic).trans pointer)
    bv_omega
  have walk := classicWalk_of_second (i := i) first second moved (by rw [State.withRequest_cfg]; exact hcap)
  rw [csr, requestAfter_or p (by decide), rxDeliveredCtl, ha, deliverCtl_of_single hr, delivered, BitVec.or_assoc,
    ← ri_rl] at walk
  exact walk

end

/-! ### The two ways to it (rules R109, R179) -/

/-- The receive list made valid again, the request as it was. -/
theorem requestAfter_congr {old old' : Word} (new : Word) (p : Bool)
    (h : ∀ n ∈ [Csr.IE, Csr.XI, Csr.RI], old.getLsbD n = old'.getLsbD n) :
    requestAfter old new p = requestAfter old' new p := by
  have hIE : old.getLsbD 6 = old'.getLsbD 6 := h Csr.IE (by simp)
  have hXI : old.getLsbD 7 = old'.getLsbD 7 := h Csr.XI (by simp)
  have hRI : old.getLsbD 15 = old'.getLsbD 15 := h Csr.RI (by simp)
  simp only [requestAfter, hIE, hXI, hRI]

/-- A frame put in an empty queue (rule R174). -/
theorem rqInsertCtl_of_empty {cap : Nat} (hcap : 1 ≤ cap) (hr : c.queue.readq = []) (kind : ItemKind) (f : List Byte) :
    rqInsertCtl cap kind f c = { c with
      queue := { readq := [{ kind := kind, bytes := normalise f, offset := 0 }], loss := c.queue.loss }
      stats := normaliseStats f c.stats } := by
  have room : ¬c.queue.readq.length = cap := by rw [hr]; simp only [List.length_nil]; omega
  rw [rqInsertCtl, queueAfter, if_neg room, insertStats, if_neg room, hr]
  rfl

theorem exec_rxf {f : List Byte} (ha : (s.unit i).attached = true) (hs : (s.ctl i).rxSubscribed = true) :
    exec (.rxf i f) s = runOp (receive i f) s := by
  have enabled : ((s.unit i).attached && (s.ctl i).rxSubscribed) = true := by rw [ha, hs]; rfl
  exact if_pos enabled

/-- A frame put in the queue of an instance in a classic mode that can take it starts the receive walk (rule R179). -/
theorem receive_starts {f : List Byte} (hm : (s.ctl i).mode ≠ .turbo)
    (rl : (s.ctl i).classic.csr.getLsbD Csr.RL = false) :
    receive i f s
      = classicWalk i (rxPass i) (s.setCtl i (rqInsertCtl s.cfg.readqCap .normal f (s.ctl i))) := by
  have mode : ∀ cap, (rqInsertCtl cap .normal f (s.ctl i)).mode = (s.ctl i).mode := fun _ => rfl
  have classic : ∀ cap, (rqInsertCtl cap .normal f (s.ctl i)).classic = (s.ctl i).classic := fun _ => rfl
  rw [receive, rqInsert, bind_assoc, op_bind_ok (getCfg_apply s), op_bind_ok (changeCtl_apply i _ s),
    op_bind_ok (getCtl_apply i _), onCtl, State.setCtl_ctl_same, mode, if_neg hm, rxDispatch,
    op_bind_ok (getCtl_apply i _), State.setCtl_ctl_same, classic, rl]
  rfl

/-- The list made valid and ended again: only RI is new. -/
theorem clear_rl_or (csr : Word) : (csr &&& ~~~Csr.rlMask) ||| 0x8020 = csr ||| 0x8020 := by
  have split : (0x8020 : Word) = Csr.rlMask ||| Csr.riMask := by decide
  rw [split, ← BitVec.or_assoc, ← BitVec.or_assoc, ← csrAfter_set (csr &&& ~~~Csr.rlMask), csrAfter_set_clear]

/-- Settles O27: both ways lead to the one walk, a frame by way of the queue and a write by way of the list's base. -/
theorem itemDelivered : Obligations.ItemDelivered := by
  intro s i a q hm hc hq cap0 cap1 c lost len new t takes
  have hcap : ∀ n, s.cfg.chainCap = some n → 1 < n := by
    intro n hn
    rw [hn] at cap0 cap1
    simp only [ne_eq, Option.some.injEq] at cap0 cap1
    omega
  refine ⟨fun f attached subscribed rl hr room ha hqf => ?_, fun m d hmode hreq hr ha noShake => ?_⟩
  · have inserted := rqInsertCtl_of_empty room hr .normal f
    have walk := rxWalk_delivers (i := i) (t := s) (c := rqInsertCtl s.cfg.readqCap .normal f c) (p := c.pending) (a := a)
      (q := q) hq (by rw [inserted]; exact ha.symm) rfl hcap (by rw [inserted, hqf]) (by rw [inserted]; exact takes)
    rw [← State.setCtl_eq_withRequest hc (by rw [inserted])] at walk
    rw [exec_rxf attached subscribed]
    refine runOp_of_ok ((receive_starts hm rl).trans (walk.trans ?_))
    rw [inserted]
  · have walk := rxWalk_delivers (i := i) (t := s) (c := c.withRxList a) (p := c.pending) (a := a) (q := q) hq rfl rfl hcap
      hr takes
    have csr : (c.withRxList a).classic.csr ||| 0x8020 = new := clear_rl_or c.classic.csr
    have request : requestAfter (c.withRxList a).classic.csr new c.pending = requestAfter c.classic.csr new c.pending :=
      requestAfter_congr new c.pending fun n hn => getLsbD_and_not_of_not_mem (by revert n; decide)
    rw [csr, request] at walk
    rw [exec_writeInstr_rbdlHi (hmode ▸ hm) hmode]
    refine runOp_of_ok ((writeRbdlHi_starts hm hreq (handshakes_eq_false hmode noShake)).trans ?_)
    have starts : s.setCtl i (c.withRxList a) = s.withRequest i (c.withRxList a) c.pending :=
      State.setCtl_eq_withRequest hc rfl
    rw [← ha]
    exact (congrArg (classicWalk i (rxPass i)) starts).trans walk

end Sys2Proof.Machine
end

section
/-! The transmit walk over `n` descriptors of a message that does not end (rules R140, R152, R153, R159): its points are
`State.gathered` at each number of them, and what it does to guest memory is said of one descriptor and then of all. -/

namespace Sys2Proof.Machine

variable {s t : State} {i : Inst} {c : Ctl} {a b x : Addr} {buf : List Byte} {k n : Nat}

/-- The `k`th descriptor of the list at `b`. -/
abbrev listAddr (b : Addr) (k : Nat) : Addr := b + BitVec.ofNat 22 (12 * k)

theorem listAddr_zero (b : Addr) : listAddr b 0 = b := addr_zero b

theorem listAddr_succ (b : Addr) (k : Nat) : listAddr b (k + 1) = listAddr b k + 12 := by
  rw [listAddr, Nat.mul_succ, BitVec.ofNat_add, ← BitVec.add_assoc]
  rfl

theorem listAddr_tail (b : Addr) (k : Nat) : listAddr (b + 12) k = listAddr b (k + 1) := by
  rw [listAddr_succ, listAddr, listAddr, BitVec.add_assoc, BitVec.add_comm 12, ← BitVec.add_assoc]

/-- Two places of a list that fits the bus are one only if they are the same byte of it. -/
theorem listAddr_inj {j k o o' : Nat} (hj : 12 * j + o < 2 ^ 22) (hk : 12 * k + o' < 2 ^ 22)
    (h : listAddr b j + BitVec.ofNat 22 o = listAddr b k + BitVec.ofNat 22 o') : 12 * j + o = 12 * k + o' := by
  rw [listAddr, listAddr, BitVec.add_assoc, BitVec.add_assoc, ← BitVec.ofNat_add, ← BitVec.ofNat_add,
    BitVec.add_right_inj] at h
  have values := congrArg BitVec.toNat h
  rwa [BitVec.toNat_ofNat, BitVec.toNat_ofNat, Nat.mod_eq_of_lt hj, Nat.mod_eq_of_lt hk] at values

/-! ### One descriptor -/

/-- Guest memory after the descriptor at `a` is fetched and its more-data status written (rules R90, R140, R152). -/
def State.segmentGathered (a : Addr) (s : State) : State := (s.fetched a).wrotePair a 0xC000 0x0000

/-- The bytes that the descriptor at `a` names, as its fetch finds it. -/
def State.segmentBytes (a : Addr) (s : State) : List Byte :=
  (s.fetched a).bytesAt (descStart ((s.fetched a).descAt a)) (descLen ((s.fetched a).descAt a))

/-- The descriptor at `a` holds a segment of a message that goes on, and can be gathered. -/
def State.GathersAt (a : Addr) (s : State) : Prop :=
  descReady s.cfg a = true ∧ descValid ((s.fetched a).descAt a) = true ∧ descChain ((s.fetched a).descAt a) = false
    ∧ descEom ((s.fetched a).descAt a) = false
    ∧ bytesBacked s.cfg (descStart ((s.fetched a).descAt a)) (descLen ((s.fetched a).descAt a)) = true

/-- An instance after that. -/
def gatherCtl (cap : Nat) (more : List Byte) (a : Addr) (c : Ctl) : Ctl :=
  (c.setTxbuf (keepUpTo cap c.tx.txbuf more)).setXptr (a + descBytes)

theorem State.bytesAt_setCtl (s : State) (i : Inst) (c : Ctl) (a : Addr) (n : Nat) :
    (s.setCtl i c).bytesAt a n = s.bytesAt a n := by
  induction n generalizing a with
  | zero => rfl
  | succ n ih => rw [State.bytesAt, State.bytesAt, ih, State.byteAt, State.setCtl_cfg, State.setCtl_mem]; rfl

theorem State.wrotePair_setCtl (s : State) (i : Inst) (c : Ctl) (a : Addr) (v w : Word) :
    (s.setCtl i c).wrotePair a v w = (s.wrotePair a v w).setCtl i c := by
  rw [State.wrotePair, State.wroteWord_setCtl, State.addTrace_setCtl, State.wroteWord_setCtl]
  rfl

theorem txGather_setCtl {ctx : NxmCtx} {len : Nat} (h : bytesBacked t.cfg a len = true) (hq : t.Quiet) :
    txGather i ctx len a (t.setCtl i c)
      = .ok () (t.setCtl i (c.setTxbuf (keepUpTo t.cfg.txbufMax c.tx.txbuf (t.bytesAt a len)))) := by
  rw [txGather, op_bind_ok (getCfg_apply _),
    op_bind_ok (readBytes_of_backed (by rwa [State.setCtl_cfg]) ((t.setCtl_concurrent i c).trans hq)), changeCtl_apply,
    onCtl_setCtl, State.bytesAt_setCtl, State.setCtl_cfg]

theorem txSegmentDone_setCtl (h1 : wordReady t.cfg (a + 8) = true) (h2 : wordReady t.cfg (a + 10) = true) (hq : t.Quiet) :
    txSegmentDone i a (t.setCtl i c) = .ok () ((t.wrotePair a 0xC000 0x0000).setCtl i (c.setXptr (a + descBytes))) := by
  rw [txSegmentDone, op_bind_ok (statusPair_of_ready (by rwa [State.setCtl_cfg]) (by rwa [State.setCtl_cfg])
    ((t.setCtl_concurrent i c).trans hq)), changeCtl_apply, State.wrotePair_setCtl, onCtl_setCtl]

/-- The pass over a descriptor of a message that goes on (rules R152, R153). -/
theorem txPass_gathers (hq : t.Quiet) (ha : c.classic.xptr = a) (h : t.GathersAt a) :
    txPass i () (t.setCtl i c)
      = .ok (.again ()) ((t.segmentGathered a).setCtl i (gatherCtl t.cfg.txbufMax (t.segmentBytes a) a c)) := by
  obtain ⟨ready, valid, noChain, noEom, backed⟩ := h
  obtain ⟨_, _, _, _, h1, h2⟩ := descReady_iff.1 ready
  have quiet : (t.fetched a).Quiet := (t.fetched_concurrent a).trans hq
  rw [txPass, op_bind_ok (getCtl_apply i _), State.setCtl_ctl_same, ha, op_bind_ok (fetchDesc_setCtl ready hq), valid,
    noChain, noEom]
  simp only [Bool.not_true, Bool.false_eq_true, if_false]
  rw [op_bind_ok (txGather_setCtl (by rwa [State.fetched_cfg]) quiet),
    op_bind_ok (txSegmentDone_setCtl (by rwa [State.fetched_cfg]) (by rwa [State.fetched_cfg]) quiet), State.fetched_cfg]
  rfl

namespace State.OnlyMemory

theorem fetched (s : State) (a : Addr) : s.OnlyMemory (s.fetched a) := by
  unfold State.fetched
  split
  · exact wroteWord s a _
  · exact refl s

theorem wrotePair (s : State) (a : Addr) (v w : Word) : s.OnlyMemory (s.wrotePair a v w) :=
  ((wroteWord s _ w).trans (addTrace _ _)).trans (wroteWord _ _ v)

theorem segmentGathered (s : State) (a : Addr) : s.OnlyMemory (s.segmentGathered a) :=
  (fetched s a).trans (wrotePair _ a _ _)

theorem cfg_eq (h : s.OnlyMemory t) : t.cfg = s.cfg := by
  rw [State.OnlyMemory] at h
  rw [h]

theorem quiet (h : s.OnlyMemory t) (hq : s.Quiet) : t.Quiet := by
  rw [State.OnlyMemory] at h
  rw [State.Quiet, h]
  exact hq

end State.OnlyMemory

theorem State.fetched_wf (h : Memory.wf s.mem = true) (a : Addr) : Memory.wf (s.fetched a).mem = true := by
  unfold State.fetched
  split
  · exact State.wroteWord_wf h
  · exact h

theorem State.wrotePair_wf (h : Memory.wf s.mem = true) (a : Addr) (v w : Word) :
    Memory.wf (s.wrotePair a v w).mem = true := State.wroteWord_wf (s := (s.wroteWord (a + 10) w).addTrace .barrier)
  (State.wroteWord_wf h)

theorem State.segmentGathered_wf (h : Memory.wf s.mem = true) (a : Addr) : Memory.wf (s.segmentGathered a).mem = true :=
  State.wrotePair_wf (State.fetched_wf h a) a _ _

/-- The write that a fetch at `a` makes. -/
def flagEvents (cfg : Config) (a : Addr) : List MemEvent := if cfg.writeFlagWord then [.word a 0xFFFF] else []

theorem State.fetched_trace (s : State) (a : Addr) : (s.fetched a).trace = s.trace ++ flagEvents s.cfg a := by
  unfold State.fetched flagEvents
  split
  · exact s.wroteWord_trace a _
  · exact (List.append_nil _).symm

theorem State.wrotePair_trace (s : State) (a : Addr) (v w : Word) :
    (s.wrotePair a v w).trace = s.trace ++ [MemEvent.word (a + 10) w, MemEvent.barrier, MemEvent.word (a + 8) v] := by
  rw [State.wrotePair, State.wroteWord_trace, State.addTrace_trace, State.wroteWord_trace]
  simp only [List.append_assoc, List.cons_append, List.nil_append]

/-- No byte that a fetch at `a` writes is the one at `x`. -/
def FlagApart (cfg : Config) (x a : Addr) : Prop :=
  cfg.writeFlagWord = true → locate cfg x ≠ locate cfg a ∧ locate cfg x ≠ locate cfg (a + 1)

/-- No byte of the status words of the descriptor at `a` is the one at `x`. -/
def StatusApart (cfg : Config) (x a : Addr) : Prop :=
  ∀ o ∈ ([8, 9, 10, 11] : List Addr), locate cfg x ≠ locate cfg (a + o)

theorem State.byteAt_wroteWord_other {v : Word} (h : Memory.wf s.mem = true) (h0 : locate s.cfg x ≠ locate s.cfg a)
    (h1 : locate s.cfg x ≠ locate s.cfg (a + 1)) : (s.wroteWord a v).byteAt x = s.byteAt x :=
  (State.byteAt_wroteWord x).trans (State.byteAt_putWord_other h h0 h1)

theorem State.byteAt_fetched_other (h : Memory.wf s.mem = true) (hx : FlagApart s.cfg x a) :
    (s.fetched a).byteAt x = s.byteAt x := by
  unfold State.fetched
  split
  next flag =>
    obtain ⟨h0, h1⟩ := hx flag
    exact State.byteAt_wroteWord_other h h0 h1
  next => rfl

theorem State.byteAt_wrotePair_other {v w : Word} (h : Memory.wf s.mem = true) (hx : StatusApart s.cfg x a) :
    (s.wrotePair a v w).byteAt x = s.byteAt x := by
  simp only [StatusApart, List.forall_mem_cons] at hx
  obtain ⟨h8, h9, h10, h11, _⟩ := hx
  have wf : Memory.wf ((s.wroteWord (a + 10) w).addTrace .barrier).mem = true := State.wroteWord_wf h
  have cfg : ((s.wroteWord (a + 10) w).addTrace .barrier).cfg = s.cfg := by rw [State.addTrace_cfg, State.wroteWord_cfg]
  rw [State.wrotePair, State.byteAt_wroteWord_other wf (by rwa [cfg]) (by rwa [cfg, BitVec.add_assoc]),
    State.byteAt_addTrace, State.byteAt_wroteWord_other h h10 (by rwa [BitVec.add_assoc])]

theorem State.byteAt_segmentGathered_other (h : Memory.wf s.mem = true) (flag : FlagApart s.cfg x a)
    (status : StatusApart s.cfg x a) : (s.segmentGathered a).byteAt x = s.byteAt x := by
  rw [State.segmentGathered, State.byteAt_wrotePair_other (State.fetched_wf h a) (by rwa [State.fetched_cfg]),
    State.byteAt_fetched_other h flag]

/-! ### All of them -/

theorem State.gathered_first (s : State) (k : Nat) (b : Addr) (buf : List Byte) :
    s.gathered (k + 1) b buf
      = (s.segmentGathered b).gathered k (b + 12) (keepUpTo s.cfg.txbufMax buf (s.segmentBytes b)) := rfl

/-- One descriptor more is gathered where the others ended. -/
theorem State.gathered_succ (s : State) (k : Nat) (b : Addr) (buf : List Byte) :
    s.gathered (k + 1) b buf
      = ((s.gathered k b buf).1.segmentGathered (listAddr b k),
          keepUpTo s.cfg.txbufMax (s.gathered k b buf).2 ((s.gathered k b buf).1.segmentBytes (listAddr b k))) := by
  induction k generalizing s b buf with
  | zero =>
    rw [listAddr_zero]
    rfl
  | succ k ih =>
    have cfg : (s.segmentGathered b).cfg = s.cfg := (State.OnlyMemory.segmentGathered s b).cfg_eq
    have rest := ih (s.segmentGathered b) (b + 12) (keepUpTo s.cfg.txbufMax buf (s.segmentBytes b))
    rw [State.gathered_first, rest, listAddr_tail, cfg, State.gathered_first]

/-- What is gathered before does not matter to guest memory. -/
theorem State.gathered_mem (s : State) (k : Nat) (b : Addr) (buf buf' : List Byte) :
    (s.gathered k b buf).1 = (s.gathered k b buf').1 := by
  induction k with
  | zero => rfl
  | succ k ih => rw [State.gathered_succ, State.gathered_succ, ih]

theorem State.gathered_onlyMemory (s : State) (k : Nat) (b : Addr) (buf : List Byte) :
    s.OnlyMemory (s.gathered k b buf).1 := by
  induction k with
  | zero => exact State.OnlyMemory.refl s
  | succ k ih => rw [State.gathered_succ]; exact ih.trans (State.OnlyMemory.segmentGathered _ _)

theorem State.gathered_wf (h : Memory.wf s.mem = true) : Memory.wf (s.gathered k b buf).1.mem = true := by
  induction k with
  | zero => exact h
  | succ k ih => rw [State.gathered_succ]; exact State.segmentGathered_wf ih _

/-- The walk's writes, in their order (rules R66, R159). -/
theorem State.gathered_trace (s : State) (n : Nat) (b : Addr) (buf : List Byte) :
    (s.gathered n b buf).1.trace = s.trace ++ (List.range n).flatMap fun k => flagEvents s.cfg (listAddr b k)
      ++ [MemEvent.word (listAddr b k + 10) 0x0000, MemEvent.barrier, MemEvent.word (listAddr b k + 8) 0xC000] := by
  induction n with
  | zero => exact (List.append_nil _).symm
  | succ n ih =>
    rw [State.gathered_succ, State.segmentGathered, State.wrotePair_trace, State.fetched_trace, ih,
      (s.gathered_onlyMemory n b buf).cfg_eq, List.range_succ, List.flatMap_append]
    simp only [List.flatMap_cons, List.flatMap_nil, List.append_nil, List.append_assoc]

/-- The walk changes no byte but those of the flag words and of the status words. -/
theorem State.byteAt_gathered_other (h : Memory.wf s.mem = true)
    (flag : ∀ k < n, FlagApart s.cfg x (listAddr b k)) (status : ∀ k < n, StatusApart s.cfg x (listAddr b k)) :
    (s.gathered n b buf).1.byteAt x = s.byteAt x := by
  induction n with
  | zero => rfl
  | succ n ih =>
    have cfg := (s.gathered_onlyMemory n b buf).cfg_eq
    rw [State.gathered_succ, State.byteAt_segmentGathered_other (State.gathered_wf h)
      (by rw [cfg]; exact flag n (Nat.lt_succ_self n)) (by rw [cfg]; exact status n (Nat.lt_succ_self n))]
    exact ih (fun k hk => flag k (Nat.lt_succ_of_lt hk)) fun k hk => status k (Nat.lt_succ_of_lt hk)

/-! ### The status words that stand, where the bus map keeps addresses apart -/

/-- Two addresses of guest memory are never kept in one place. -/
def KeepsApart (cfg : Config) : Prop := ∀ x y : Addr, backed cfg x = true → locate cfg x = locate cfg y → x = y

theorem State.wordAt_addTrace (s : State) (e : MemEvent) (a : Addr) : (s.addTrace e).wordAt a = s.wordAt a := rfl

/-- A word stands after it is written. -/
theorem State.wordAt_wroteWord {v : Word} (h : Memory.wf s.mem = true) (apart : KeepsApart s.cfg)
    (ready : wordReady s.cfg a = true) : (s.wroteWord a v).wordAt a = v := by
  obtain ⟨_, low, high⟩ := wordReady_iff.1 ready
  exact State.wordAt_putWord_same h (by rw [wordBacked, low, high]; rfl) fun e => by
    have same := apart _ _ low e
    bv_omega

/-- A word that shares no address with it is what it was. -/
theorem State.wordAt_wroteWord_other {v : Word} (h : Memory.wf s.mem = true) (apart : KeepsApart s.cfg)
    (ready : wordReady s.cfg x = true) (h0 : x ≠ a) (h1 : x ≠ a + 1) (h2 : x + 1 ≠ a) :
    (s.wroteWord a v).wordAt x = s.wordAt x := by
  obtain ⟨_, low, high⟩ := wordReady_iff.1 ready
  exact State.wordAt_putWord_other h (fun e => h0 (apart _ _ low e)) (fun e => h1 (apart _ _ low e))
    (fun e => h2 (apart _ _ high e)) fun e => h0 ((BitVec.add_left_inj 1).1 (apart _ _ high e))

/-- A status pair stands after it is written. -/
theorem State.wordAt_wrotePair {v w : Word} (h : Memory.wf s.mem = true) (apart : KeepsApart s.cfg)
    (h1 : wordReady s.cfg (a + 8) = true) (h2 : wordReady s.cfg (a + 10) = true) :
    (s.wrotePair a v w).wordAt (a + 10) = w ∧ (s.wrotePair a v w).wordAt (a + 8) = v := by
  obtain ⟨u, second⟩ : ∃ u, u = (s.wroteWord (a + 10) w).addTrace .barrier := ⟨_, rfl⟩
  have wf : Memory.wf u.mem = true := by rw [second]; exact State.wroteWord_wf h
  have cfg : u.cfg = s.cfg := by rw [second, State.addTrace_cfg, State.wroteWord_cfg]
  have stands : u.wordAt (a + 10) = w := by
    rw [second, State.wordAt_addTrace, State.wordAt_wroteWord h apart h2]
  rw [State.wrotePair, ← second]
  rw [← cfg] at apart h1 h2
  refine ⟨?_, State.wordAt_wroteWord wf apart h1⟩
  rw [State.wordAt_wroteWord_other wf apart h2 (by bv_omega) (by bv_omega) (by bv_omega), stands]

/-- A byte of one descriptor's status words is none that the walk writes at another descriptor. -/
theorem statusByte_apart {cfg : Config} (apart : KeepsApart cfg) {j o : Nat} (hj : 12 * (j + 1) ≤ 2 ^ 22)
    (hk : 12 * (k + 1) ≤ 2 ^ 22) (ho : o < 12) (hjk : j ≠ k)
    (hb : backed cfg (listAddr b k + BitVec.ofNat 22 o) = true) :
    FlagApart cfg (listAddr b k + BitVec.ofNat 22 o) (listAddr b j)
      ∧ StatusApart cfg (listAddr b k + BitVec.ofNat 22 o) (listAddr b j) := by
  have ne : ∀ o' < 12, locate cfg (listAddr b k + BitVec.ofNat 22 o) ≠ locate cfg (listAddr b j + BitVec.ofNat 22 o') := by
    intro o' ho' e
    have same := listAddr_inj (by omega) (by omega) (apart _ _ hb e)
    omega
  refine ⟨fun _ => ⟨addr_zero (listAddr b j) ▸ ne 0 (by decide), ne 1 (by decide)⟩, ?_⟩
  simp only [StatusApart, List.forall_mem_cons]
  exact ⟨ne 8 (by decide), ne 9 (by decide), ne 10 (by decide), ne 11 (by decide), by simp⟩

/-- The status words of the descriptor at `a` are the more-data status. -/
def State.MoreData (a : Addr) (s : State) : Prop := s.wordAt (a + 10) = 0x0000 ∧ s.wordAt (a + 8) = 0xC000

/-- They are what they were when none of their bytes changes. -/
theorem State.MoreData.of_bytes (h : s.MoreData a)
    (bytes : ∀ o : Nat, 8 ≤ o → o < 12 → t.byteAt (a + BitVec.ofNat 22 o) = s.byteAt (a + BitVec.ofNat 22 o)) :
    t.MoreData a := by
  have word : ∀ o : Nat, 8 ≤ o → o + 1 < 12 → t.wordAt (a + BitVec.ofNat 22 o) = s.wordAt (a + BitVec.ofNat 22 o) := by
    intro o h8 h12
    have next : a + BitVec.ofNat 22 o + 1 = a + BitVec.ofNat 22 (o + 1) := by rw [BitVec.ofNat_add, BitVec.add_assoc]; rfl
    rw [State.wordAt, State.wordAt, next, bytes o h8 (Nat.lt_of_succ_lt h12), bytes (o + 1) (Nat.le_succ_of_le h8) h12]
  obtain ⟨second, first⟩ := h
  exact ⟨(word 10 (by decide) (by decide)).trans second, (word 8 (by decide) (by decide)).trans first⟩

theorem backed_of_descReady {cfg : Config} (h : descReady cfg a = true) {o : Nat} (h8 : 8 ≤ o) (h12 : o < 12) :
    backed cfg (a + BitVec.ofNat 22 o) = true := by
  obtain ⟨_, _, _, _, ready8, ready10⟩ := descReady_iff.1 h
  obtain ⟨_, b8, b9⟩ := wordReady_iff.1 ready8
  obtain ⟨_, b10, b11⟩ := wordReady_iff.1 ready10
  rw [BitVec.add_assoc] at b9 b11
  obtain rfl | rfl | rfl | rfl : o = 8 ∨ o = 9 ∨ o = 10 ∨ o = 11 := by omega
  · exact b8
  · exact b9
  · exact b10
  · exact b11

/-- The status of every descriptor stands after the walk's writes to the others. -/
theorem State.gathered_moreData (h : Memory.wf s.mem = true) (apart : KeepsApart s.cfg) (hn : 12 * n ≤ 2 ^ 22)
    (ready : ∀ k < n, descReady s.cfg (listAddr b k) = true) (hk : k < n) :
    (s.gathered n b buf).1.MoreData (listAddr b k) := by
  induction n with
  | zero => cases hk
  | succ n ih =>
    have cfg := (s.gathered_onlyMemory n b buf).cfg_eq
    have wf : Memory.wf (s.gathered n b buf).1.mem = true := State.gathered_wf h
    rw [State.gathered_succ]
    by_cases last : k = n
    · subst last
      obtain ⟨_, _, _, _, h1, h2⟩ := descReady_iff.1 (ready k hk)
      rw [← cfg] at apart h1 h2
      exact State.wordAt_wrotePair (State.fetched_wf wf _) (by rwa [State.fetched_cfg]) (by rwa [State.fetched_cfg])
        (by rwa [State.fetched_cfg])
    · have before : k < n := by omega
      refine (ih (by omega) (fun j hj => ready j (Nat.lt_succ_of_lt hj)) before).of_bytes fun o h8 h12 => ?_
      obtain ⟨flag, status⟩ := statusByte_apart apart (b := b) (j := n) hn (by omega) h12 (Ne.symm last)
        (backed_of_descReady (ready k hk) h8 h12)
      exact State.byteAt_segmentGathered_other wf (by rwa [cfg]) (by rwa [cfg])

/-! ### The walk -/

/-- The walk of an instance `c` that has gathered `k` descriptors of the list at `b`. -/
def txPoint (s : State) (i : Inst) (c : Ctl) (b : Addr) (k : Nat) : State :=
  (s.gathered k b c.tx.txbuf).1.setCtl i ((c.setTxbuf (s.gathered k b c.tx.txbuf).2).setXptr (listAddr b k))

theorem txPoint_zero (hb : c.classic.xptr = b) : txPoint s i c b 0 = s.setCtl i c := by
  subst hb
  rw [txPoint, listAddr_zero]
  rfl

theorem gatherCtl_point (cap : Nat) (buf more : List Byte) (c : Ctl) (a : Addr) :
    gatherCtl cap more a ((c.setTxbuf buf).setXptr a) = (c.setTxbuf (keepUpTo cap buf more)).setXptr (a + 12) := rfl

theorem txPoint_goesOn (hq : s.Quiet) (h : (s.gathered k b c.tx.txbuf).1.GathersAt (listAddr b k)) :
    txPass i () (txPoint s i c b k) = .ok (.again ()) (txPoint s i c b (k + 1)) := by
  have only := s.gathered_onlyMemory k b c.tx.txbuf
  have pass := txPass_gathers (i := i) (a := listAddr b k)
    (c := (c.setTxbuf (s.gathered k b c.tx.txbuf).2).setXptr (listAddr b k)) (only.quiet hq) rfl h
  rw [gatherCtl_point, only.cfg_eq] at pass
  rw [txPoint, txPoint, State.gathered_succ, listAddr_succ]
  exact pass

theorem txPoint_differ {m : Nat} (hmn : m < n) (hn : 12 * (n + 1) ≤ 2 ^ 22) :
    sameWalk (txPoint s i c b m) (txPoint s i c b n) = false := by
  by_contra same
  have classic := classic_eq_of_sameWalk (Bool.not_eq_false _ ▸ same) i
  rw [txPoint, txPoint, State.setCtl_ctl_same, State.setCtl_ctl_same] at classic
  have pointer : listAddr b m = listAddr b n := congrArg Classic.xptr classic
  have here : 12 * m + 0 = 12 * n + 0 :=
    listAddr_inj (b := b) (by omega) (by omega) (congrArg (· + BitVec.ofNat 22 0) pointer)
  omega

/-- The walk gathers the descriptors up to the first invalid one, and ends there. -/
theorem txWalk_gathers (hq : s.Quiet) (hb : c.classic.xptr = b) (hn : 12 * (n + 1) ≤ 2 ^ 22)
    (hcap : ∀ cap, s.cfg.chainCap = some cap → n < cap)
    (gathers : ∀ k < n, (s.gathered k b c.tx.txbuf).1.GathersAt (listAddr b k))
    (ready : descReady s.cfg (listAddr b n) = true)
    (invalid : descValid (((s.gathered n b c.tx.txbuf).1.fetched (listAddr b n)).descAt (listAddr b n)) = false) :
    classicWalk i (txPass i) (s.setCtl i c)
      = .ok () (csrChange i Csr.xlMask 0 (((s.gathered n b c.tx.txbuf).1.fetched (listAddr b n)).setCtl i
          ((c.setTxbuf (s.gathered n b c.tx.txbuf).2).setXptr (listAddr b n)))) := by
  have only := s.gathered_onlyMemory n b c.tx.txbuf
  have last := (txListWalk i).atInvalid (c := (c.setTxbuf (s.gathered n b c.tx.txbuf).2).setXptr (listAddr b n))
    (only.quiet hq) rfl (by rwa [only.cfg_eq]) invalid
  have ends : Ends (txPass i) (fun _ => ()) (txPoint s i c b) n :=
    { goesOn := fun k hk => txPoint_goesOn hq (gathers k hk)
      stops := fun _ _ again => by cases last.symm.trans again
      differ := fun m k hmk hk => txPoint_differ hmk (by omega) }
  have walk := classicWalk_of_ends (i := i) ends (by omega) (by rw [txPoint_zero hb, State.setCtl_cfg]; exact hcap)
  rw [txPoint_zero hb] at walk
  exact walk.trans (congrArg walkEnd last)

/-- Settles O29: the walk above, and what is said of its guest memory. -/
theorem transmitWalk : Obligations.TransmitWalk := by
  intro s i m d n hm hmode hr hq hcap idle wf hn c b at' at? flag ready segments invalid g t
  have classic : c.mode ≠ .turbo := hmode ▸ hm
  have only := s.gathered_onlyMemory n b c.tx.txbuf
  have gathers : ∀ k < n, (s.gathered k b c.tx.txbuf).1.GathersAt (listAddr b k) := by
    intro k hk
    obtain ⟨valid, noChain, noEom, backed⟩ := segments k hk
    rw [State.descAfter, State.gathered_mem s k b [] c.tx.txbuf] at valid noChain noEom backed
    have cfg := (s.gathered_onlyMemory k b c.tx.txbuf).cfg_eq
    exact ⟨by rw [cfg]; exact ready k hk.le, valid, noChain, noEom, by rw [cfg]; exact backed⟩
  rw [State.descAfter, State.gathered_mem s n b [] c.tx.txbuf] at invalid
  refine ⟨?_, ?_, fun x status flags => ?_, fun apart k hk => ?_, only.trans (State.OnlyMemory.fetched _ _)⟩
  · have walk := txWalk_gathers (i := i) (c := c.withTxList b) hq rfl hn hcap gathers (ready n le_rfl) invalid
    have ended := csrChange_txListEnd (i := i) (c := c.setTxbuf g.2) classic hr t b (at' n)
    rw [exec_writeInstr_xbdlHi hm hmode]
    exact runOp_of_ok ((writeXbdlHi_starts classic hr idle).trans (walk.trans (congrArg (EStateM.Result.ok ()) ended)))
  · show (g.1.fetched (at' n)).trace = _
    rw [State.fetched_trace, only.cfg_eq, State.gathered_trace]
    rfl
  · have same := State.byteAt_gathered_other (buf := c.tx.txbuf) wf (fun k hk flag => flags flag k hk.le)
      (fun k hk o ho => status k hk o ho)
    refine (State.byteAt_fetched_other (State.gathered_wf wf) ?_).trans same
    rw [only.cfg_eq]
    exact fun flag => flags flag n le_rfl
  · have moreData : g.1.MoreData (at' k) :=
      State.gathered_moreData wf apart (by omega) (fun j hj => ready j hj.le) hk
    refine moreData.of_bytes fun o h8 h12 => ?_
    obtain ⟨flag, _⟩ := statusByte_apart apart (b := b) (j := n) hn (by omega) h12 hk.ne'
      (backed_of_descReady (ready k hk.le) h8 h12)
    exact State.byteAt_fetched_other (State.gathered_wf wf) (by rwa [only.cfg_eq])

end Sys2Proof.Machine
end

section
/-! The records of the operations (rules R76 to R78): what each form of operand decodes to, read backwards, so that a record
that decodes is the record of its operation. -/

namespace Sys2Proof

/-! ### Bytes and what they name -/

theorem eq_instByte_of_instOf {b : Byte} {u : Inst} (h : instOf b = some u) : b = instByte u := by
  unfold instOf at h
  split at h <;> cases h <;> rfl

theorem eq_statusByte_of_statusOf {b : Byte} {st : TxStatus} (h : statusOf b = some st) : b = statusByte st := by
  unfold statusOf at h
  split at h <;> cases h <;> rfl

theorem lowByte_append (hi lo : Byte) : BitVec.setWidth 8 (hi ++ lo : Word) = lo := by
  apply BitVec.eq_of_getLsbD_eq
  intro n hn
  rw [BitVec.getLsbD_setWidth, BitVec.getLsbD_append, if_pos hn, decide_eq_true hn, Bool.true_and]

theorem highByte_append (hi lo : Byte) : BitVec.setWidth 8 ((hi ++ lo : Word) >>> 8) = hi := by
  apply BitVec.eq_of_getLsbD_eq
  intro n hn
  rw [BitVec.getLsbD_setWidth, BitVec.getLsbD_ushiftRight, BitVec.getLsbD_append, if_neg (by omega),
    Nat.add_sub_cancel_left, decide_eq_true hn, Bool.true_and]

/-! ### What a form of operand decodes from -/

section

variable {rest : List Byte} {i j : Instr}

theorem decodeBare_ok (h : decodeBare j rest = .ok i) : rest = [] ∧ i = j := by
  cases rest with
  | nil => cases h; exact ⟨rfl, rfl⟩
  | cons b rest => cases h

theorem decodeInst_ok {mk : Inst → Instr} (h : decodeInst mk rest = .ok i) :
    ∃ u, rest = [instByte u] ∧ i = mk u := by
  unfold decodeInst at h
  split at h
  · cases h
  next b rest =>
    split at h
    · cases h
    next u hu =>
      cases h
      exact ⟨u, by rw [eq_instByte_of_instOf hu], rfl⟩
    · cases h

theorem decodeWrite_ok {mk : Inst → Word → Instr} (h : decodeWrite mk rest = .ok i) :
    ∃ (u : Inst) (d : Word), rest = [instByte u, d.setWidth 8, (d >>> 8).setWidth 8] ∧ i = mk u d := by
  unfold decodeWrite at h
  split at h
  · cases h
  next b rest =>
    split at h
    · cases h
    next u lo hi hu =>
      cases h
      exact ⟨u, hi ++ lo, by rw [eq_instByte_of_instOf hu, lowByte_append, highByte_append], rfl⟩
    · cases h

theorem decodeRxf_ok (h : decodeRxf rest = .ok i) : ∃ u frame, rest = instByte u :: frame ∧ i = .rxf u frame := by
  unfold decodeRxf at h
  split at h
  · cases h
  next b frame =>
    split at h
    · cases h
    next u hu =>
      cases h
      exact ⟨u, frame, by rw [eq_instByte_of_instOf hu], rfl⟩

theorem decodeTxdone_ok (h : decodeTxdone rest = .ok i) :
    ∃ u st tag, rest = instByte u :: statusByte st :: tag ∧ i = .txdone u st (natOfBytes tag) := by
  unfold decodeTxdone at h
  split at h
  · cases h
  next b rest =>
    split at h
    · cases h
    · cases h
    next u st tag hu =>
      split at h
      · cases h
      next status hs =>
        cases h
        exact ⟨u, status, tag, by rw [eq_instByte_of_instOf hu, eq_statusByte_of_statusOf hs], rfl⟩

end

/-! ### Every row of the table -/

/-- Operation `i` is well formed, and `r` is its record, or that record with a completion's tag in more bytes (log 1). -/
def RecordOf (r : List Byte) (i : Instr) : Prop :=
  i.wellFormed = true
    ∧ (r = encode i
      ∨ ∃ u status tag, i = .txdone u status (natOfBytes tag)
          ∧ r = 0x33 :: instByte u :: statusByte status :: tag)

section

variable {code : Byte} {rest : List Byte} {i : Instr}

theorem recordOf_bare {j : Instr} (h : decodeBare j rest = .ok i) (wf : j.wellFormed = true) (enc : encode j = [code]) :
    RecordOf (code :: rest) i := by
  obtain ⟨rfl, rfl⟩ := decodeBare_ok h
  exact ⟨wf, .inl enc.symm⟩

theorem recordOf_inst {mk : Inst → Instr} (h : decodeInst mk rest = .ok i) (wf : ∀ u, (mk u).wellFormed = true)
    (enc : ∀ u, encode (mk u) = [code, instByte u]) : RecordOf (code :: rest) i := by
  obtain ⟨u, rfl, rfl⟩ := decodeInst_ok h
  exact ⟨wf u, .inl (enc u).symm⟩

theorem recordOf_write {mk : Inst → Word → Instr} (h : decodeWrite mk rest = .ok i)
    (wf : ∀ u d, (mk u d).wellFormed = true) (enc : ∀ u d, encode (mk u d) = writeRecord code u d) :
    RecordOf (code :: rest) i := by
  obtain ⟨u, d, rfl, rfl⟩ := decodeWrite_ok h
  exact ⟨wf u d, .inl (enc u d).symm⟩

theorem recordOf_rxf (h : decodeRxf rest = .ok i) : RecordOf (0x32 :: rest) i := by
  obtain ⟨u, frame, rfl, rfl⟩ := decodeRxf_ok h
  exact ⟨rfl, .inl rfl⟩

theorem recordOf_txdone (h : decodeTxdone rest = .ok i) : RecordOf (0x33 :: rest) i := by
  obtain ⟨u, st, tag, rfl, rfl⟩ := decodeTxdone_ok h
  exact ⟨rfl, .inr ⟨u, st, tag, rfl, rfl⟩⟩

/-- The rows of the table in their order: eight reads and eight writes for each mode, the events, the reserved codes. -/
theorem recordOf_decodeCode (h : decodeCode code rest = .ok i) : RecordOf (code :: rest) i := by
  unfold decodeCode at h
  split at h
  case h_1 | h_2 | h_3 | h_4 | h_5 | h_6 | h_7 | h_8
      | h_17 | h_18 | h_19 | h_20 | h_21 | h_22 | h_23 | h_24
      | h_33 | h_34 | h_35 | h_36 | h_37 | h_38 | h_39 | h_40
      | h_50 | h_53 => exact recordOf_inst h (fun _ => rfl) fun _ => rfl
  case h_9 | h_10 | h_11 | h_12 | h_13 | h_14 | h_15 | h_16
      | h_25 | h_26 | h_27 | h_28 | h_29 | h_30 | h_31 | h_32
      | h_41 | h_42 | h_43 | h_44 | h_45 | h_46 | h_47 | h_48 =>
    exact recordOf_write h (fun _ _ => rfl) fun _ _ => rfl
  case h_51 => exact recordOf_rxf h
  case h_52 => exact recordOf_txdone h
  case h_65 => cases h
  all_goals exact recordOf_bare h rfl rfl

end

/-- Settles O1: the lemma of each operand's form, for each row of the table. -/
theorem decodeEncode : Obligations.DecodeEncode := fun _ h => decode_encode h

/-- Settles O2: each row of the table decodes from no record but its operation's, or a completion's with a longer tag. -/
theorem encodeDecode : Obligations.EncodeDecode := by
  intro r i h
  cases r with
  | nil => cases h
  | cons code rest => exact recordOf_decodeCode h

/-- Settles O3: four of the records are those of well-formed operations, and the fifth's code byte holds no 6-bit code. -/
theorem decodedWords : Obligations.DecodedWords :=
  ⟨decode_encode (i := .lRdCsr .i0) rfl, decode_encode (i := .cWrRbdlHi .i1 0x1234) rfl,
    decode_encode (i := .tWrArqr .i0 0x8000) rfl, decode_encode (i := .txdone .i1 .fail 3) rfl, rfl⟩

/-- Settles O38: a reserved code is its operation's whole record, and its meaning is the refusal alone. -/
theorem reservedCodes : Obligations.ReservedCodes := fun _ =>
  ⟨rfl, fun code h => ⟨decode_encode_reserved code h, rfl⟩⟩

end Sys2Proof
end

section
/-! The arithmetic of the formats: the station-address checksum (rule R93) and the words of a classic descriptor, built and
read (rules R84 to R87). -/

namespace Sys2Proof.Machine

/-! ### The checksum -/

/-- The end-around carry is reduction modulo 65535, short of taking 65535 itself to 0. -/
theorem foldCarry_spec {c : Nat} (h : c ≤ 2 * 65535) : foldCarry c ≤ 65535 ∧ foldCarry c % 65535 = c % 65535 := by
  unfold foldCarry
  split <;> omega

theorem wordOf_toNat (hi lo : Byte) : (wordOf hi lo).toNat = 256 * hi.toNat + lo.toNat := by
  rw [wordOf, BitVec.toNat_append, ← Nat.shiftLeft_add_eq_or_of_lt lo.isLt, Nat.shiftLeft_eq, Nat.mul_comm]

/-- One step of the checksum doubles the sum so far and adds a word, modulo 65535. -/
theorem checksumStep_spec {c : Nat} (h : c ≤ 65535) (hi lo : Byte) :
    checksumStep c hi lo ≤ 65535
      ∧ checksumStep c hi lo % 65535 = (2 * c + (256 * hi.toNat + lo.toNat)) % 65535 := by
  obtain ⟨bound, value⟩ := foldCarry_spec (c := c * 2) (by omega)
  have word := (wordOf hi lo).isLt
  obtain ⟨bound', value'⟩ := foldCarry_spec (c := foldCarry (c * 2) + (wordOf hi lo).toNat) (by omega)
  refine ⟨bound', ?_⟩
  rw [checksumStep, value', wordOf_toNat]
  omega

theorem chkBytes_toNat (m : Mac) :
    (chkByte m 0).toNat + 256 * (chkByte m 1).toNat = (checksumWord m).toNat := by
  have word := wordOf_toNat (highByte (checksumWord m)) (lowByte (checksumWord m))
  rw [wordOf_low_high] at word
  rw [word, Nat.add_comm]
  rfl

/-- Three steps of doubling and adding; the algorithm's last line takes 65535 to 0, so that the sum is modulo 65535. -/
theorem checksumWord_toNat (m : Mac) :
    (checksumWord m).toNat
      = (4 * (256 * m.b0.toNat + m.b1.toNat) + 2 * (256 * m.b2.toNat + m.b3.toNat)
          + (256 * m.b4.toNat + m.b5.toNat)) % 65535 := by
  obtain ⟨first, sum1⟩ := checksumStep_spec (Nat.zero_le _) m.b0 m.b1
  obtain ⟨second, sum2⟩ := checksumStep_spec first m.b2 m.b3
  obtain ⟨third, sum3⟩ := checksumStep_spec second m.b4 m.b5
  generalize hc : checksumStep (checksumStep (checksumStep 0 m.b0 m.b1) m.b2 m.b3) m.b4 m.b5 = c at third sum3
  simp only [checksumWord, hc]
  split_ifs with all
  · rw [show (0 : Word).toNat = 0 from rfl]
    omega
  · rw [BitVec.toNat_ofNat]
    omega

/-- Settles O45: the two bytes are those of the checksum word. -/
theorem addressChecksum : Obligations.AddressChecksum := fun m => (chkBytes_toNat m).trans (checksumWord_toNat m)

/-! ### A word of flag bits -/

theorem bitWord_getLsbD (n : Nat) (b : Bool) (k : Nat) :
    (bitWord n b).getLsbD k = (b && (decide (n < 16) && decide (n = k))) := by
  cases b with
  | false => exact BitVec.getLsbD_zero
  | true => exact BitVec.getLsbD_twoPow n k

theorem bitWord_toNat {n : Nat} (hn : n < 16) (b : Bool) : (bitWord n b).toNat = 2 ^ n * b.toNat := by
  cases b with
  | false => rfl
  | true => simp [bitWord, BitVec.toNat_twoPow, Nat.mod_eq_of_lt (Nat.pow_lt_pow_right (by decide : 1 < 2) hn)]

/-- Words with no bit in common are or-ed by adding them. -/
theorem toNat_or_of_disjoint {w x : Word} (h : ∀ k < 16, (w.getLsbD k && x.getLsbD k) = false) :
    (w ||| x).toNat = w.toNat + x.toNat := by
  have disjoint : w &&& x = 0#16 := BitVec.eq_of_getLsbD_eq fun k hk => by
    rw [BitVec.getLsbD_and, h k hk, BitVec.getLsbD_zero]
  rw [← BitVec.add_eq_or_of_and_eq_zero _ _ disjoint, BitVec.toNat_add_of_and_eq_zero disjoint]

/-- A flag or-ed into a word that has its bit clear adds the flag's value. -/
theorem toNat_or_bitWord {w : Word} {n : Nat} (hn : n < 16) (h : w.getLsbD n = false) (b : Bool) :
    (w ||| bitWord n b).toNat = w.toNat + 2 ^ n * b.toNat := by
  rw [toNat_or_of_disjoint fun k _ => ?_, bitWord_toNat hn]
  rw [bitWord_getLsbD]
  by_cases e : n = k
  · rw [← e, h, Bool.false_and]
  · rw [decide_eq_false e, Bool.and_false, Bool.and_false, Bool.and_false]

/-- The six bits of an address's high half, or-ed into a word whose low six bits are clear, add their value. -/
theorem toNat_or_low {w x : Word} (h : ∀ k < 6, w.getLsbD k = false) (hx : x.toNat < 64) :
    (w ||| x).toNat = w.toNat + x.toNat := by
  refine toNat_or_of_disjoint fun k _ => ?_
  by_cases hk : k < 6
  · rw [h k hk, Bool.false_and]
  · have small : x.toNat < 2 ^ k :=
      Nat.lt_of_lt_of_le hx (Nat.pow_le_pow_right (by decide : 0 < 2) (by omega : 6 ≤ k))
    rw [← x.testBit_toNat, Nat.testBit_lt_two_pow small, Bool.and_false]

/-! ### The words of a descriptor -/

/-- The flag bits of word 1 (rules R84, R87). -/
def flagWord (f : DescFlags) (l h : Bool) : Word :=
  bitWord 15 f.valid ||| bitWord 14 f.chain ||| bitWord 13 f.eom ||| bitWord 12 f.setup ||| bitWord 7 l ||| bitWord 6 h

theorem flagWord_getLsbD (f : DescFlags) (l h : Bool) (k : Nat) :
    (flagWord f l h).getLsbD k
      = (f.valid && decide (15 = k) || f.chain && decide (14 = k) || f.eom && decide (13 = k)
          || f.setup && decide (12 = k) || l && decide (7 = k) || h && decide (6 = k)) := by
  simp only [flagWord, BitVec.getLsbD_or, bitWord_getLsbD, Nat.reduceLT, decide_true, Bool.true_and]

theorem flagWord_bits (f : DescFlags) (l h : Bool) :
    (flagWord f l h).getLsbD 15 = f.valid ∧ (flagWord f l h).getLsbD 14 = f.chain
      ∧ (flagWord f l h).getLsbD 13 = f.eom ∧ (flagWord f l h).getLsbD 12 = f.setup
      ∧ (flagWord f l h).getLsbD 7 = l ∧ (flagWord f l h).getLsbD 6 = h := by
  simp only [flagWord_getLsbD, Nat.reduceEqDiff, decide_true, decide_false, Bool.and_true, Bool.and_false, Bool.or_false,
    Bool.false_or, and_self]

theorem flagWord_low (f : DescFlags) (l h : Bool) : ∀ k < 6, (flagWord f l h).getLsbD k = false := by
  intro k hk
  have apart : 15 ≠ k ∧ 14 ≠ k ∧ 13 ≠ k ∧ 12 ≠ k ∧ 7 ≠ k ∧ 6 ≠ k := by omega
  simp [flagWord_getLsbD, apart]

theorem flagWord_toNat (f : DescFlags) (l h : Bool) :
    (flagWord f l h).toNat = 32768 * f.valid.toNat + 16384 * f.chain.toNat + 8192 * f.eom.toNat
      + 4096 * f.setup.toNat + 128 * l.toNat + 64 * h.toNat := by
  rw [flagWord, toNat_or_bitWord (by decide), toNat_or_bitWord (by decide), toNat_or_bitWord (by decide),
    toNat_or_bitWord (by decide), toNat_or_bitWord (by decide), bitWord_toNat (by decide)]
  · rfl
  all_goals
    simp only [BitVec.getLsbD_or, bitWord_getLsbD, Nat.reduceEqDiff, decide_false, Bool.and_false, Bool.or_false]

/-- The even address at or below `start`, which a descriptor's address field holds (rule R87). -/
def evenBase (start : Addr) : Addr := start - (if start.getLsbD 0 then 1 else 0)

theorem toNat_getLsbD_zero (start : Addr) : (start.getLsbD 0).toNat = start.toNat % 2 := by
  rw [← start.testBit_toNat, Nat.testBit_zero]
  rcases Nat.mod_two_eq_zero_or_one start.toNat with e | e <;> rw [e] <;> rfl

theorem evenBase_toNat (start : Addr) : (evenBase start).toNat = start.toNat - start.toNat % 2 := by
  have odd := toNat_getLsbD_zero start
  have one : (if start.getLsbD 0 then 1 else 0 : Addr).toNat = start.toNat % 2 := by
    rw [← odd]
    cases start.getLsbD 0 <;> rfl
  rw [evenBase, BitVec.toNat_sub_of_le (by rw [BitVec.le_def, one]; omega), one]

theorem highHalf_toNat (a : Addr) : ((a >>> 16).setWidth 16 : Word).toNat = a.toNat / 65536 := by
  have bound := a.isLt
  rw [BitVec.toNat_setWidth, BitVec.toNat_ushiftRight, Nat.shiftRight_eq_div_pow]
  omega

section

variable (start : Addr) (len : Nat) (f : DescFlags)

/-- L of the descriptor built for `len` bytes from `start`: the buffer ends before a word's end (rule R87). -/
abbrev trimsLow (start : Addr) (len : Nat) : Bool := decide ((len + start.toNat % 2) % 2 = 1)

theorem trimsLow_toNat : (trimsLow start len).toNat = (len + start.toNat % 2) % 2 := by
  rcases Nat.mod_two_eq_zero_or_one (len + start.toNat % 2) with e | e <;> rw [trimsLow, e] <;> rfl

theorem encodeDesc_w1 : (encodeDesc start len f).w1
    = flagWord f (trimsLow start len) (start.getLsbD 0) ||| (evenBase start >>> 16).setWidth 16 := rfl

theorem encodeDesc_w1_toNat : (encodeDesc start len f).w1.toNat
    = (flagWord f (trimsLow start len) (start.getLsbD 0)).toNat + (evenBase start).toNat / 65536 := by
  have bound := (evenBase start).isLt
  rw [encodeDesc_w1, toNat_or_low (flagWord_low _ _ _) (by rw [highHalf_toNat]; omega), highHalf_toNat]

/-- The flag bits of word 1 are the encoder's: the address's high half lies below them. -/
theorem encodeDesc_w1_flag {k : Nat} (h6 : 6 ≤ k) : (encodeDesc start len f).w1.getLsbD k
    = (flagWord f (trimsLow start len) (start.getLsbD 0)).getLsbD k := by
  have beyond : ((evenBase start >>> 16).setWidth 16 : Word).getLsbD k = false := by
    rw [BitVec.getLsbD_setWidth, BitVec.getLsbD_ushiftRight, BitVec.getLsbD_of_ge _ _ (by omega), Bool.and_false]
  rw [encodeDesc_w1, BitVec.getLsbD_or, beyond, Bool.or_false]

theorem encodeDesc_flags :
    descValid (encodeDesc start len f) = f.valid ∧ descChain (encodeDesc start len f) = f.chain
      ∧ descEom (encodeDesc start len f) = f.eom ∧ descSetup (encodeDesc start len f) = f.setup
      ∧ descLow (encodeDesc start len f) = trimsLow start len
      ∧ descHigh (encodeDesc start len f) = start.getLsbD 0 := by
  obtain ⟨valid, chain, eom, setup, low, high⟩ := flagWord_bits f (trimsLow start len) (start.getLsbD 0)
  have flag := fun {k} (h6 : 6 ≤ k) => encodeDesc_w1_flag start len f h6
  exact ⟨(flag (by decide)).trans valid, (flag (by decide)).trans chain, (flag (by decide)).trans eom,
    (flag (by decide)).trans setup, (flag (by decide)).trans low, (flag (by decide)).trans high⟩

/-- The address field, its high half in the low six bits of word 1 and its low half in word 2. -/
theorem descAddr_encodeDesc : descAddr (encodeDesc start len f) = evenBase start := by
  apply BitVec.eq_of_getLsbD_eq
  intro k hk
  rw [descAddr, addrOf, BitVec.getLsbD_append]
  split_ifs with low
  · show ((evenBase start).setWidth 16).getLsbD k = _
    rw [BitVec.getLsbD_setWidth, decide_eq_true low, Bool.true_and]
  · rw [BitVec.getLsbD_setWidth, encodeDesc_w1, BitVec.getLsbD_or, flagWord_low _ _ _ _ (by omega),
      BitVec.getLsbD_setWidth, BitVec.getLsbD_ushiftRight, decide_eq_true (by omega : k - 16 < 6),
      decide_eq_true (by omega : k - 16 < 16), Nat.add_sub_cancel' (by omega)]
    simp only [Bool.true_and, Bool.false_or]

theorem descStart_encodeDesc : descStart (encodeDesc start len f) = start := by
  obtain ⟨_, _, _, _, _, high⟩ := encodeDesc_flags start len f
  rw [descStart, descAddr_encodeDesc, high]
  exact BitVec.sub_add_cancel _ _

theorem neg16_eq_neg (w : Word) : neg16 w = -w := BitVec.zero_sub w

/-- The length comes back where the word count fits in 16 bits. -/
theorem descLen_encodeDesc (h : encodeWordCount start len ≤ 65535) : descLen (encodeDesc start len f) = len := by
  have count : (neg16 (encodeDesc start len f).w3).toNat = encodeWordCount start len := by
    show (neg16 (neg16 _)).toNat = _
    rw [neg16_eq_neg, neg16_eq_neg, BitVec.neg_neg, BitVec.toNat_ofNat]
    omega
  have bit : ∀ b : Bool, (if b then 1 else 0) = b.toNat := by decide
  obtain ⟨_, _, _, _, low, high⟩ := encodeDesc_flags start len f
  rw [descLen, count, high, low, bit, bit, toNat_getLsbD_zero, trimsLow_toNat, encodeWordCount]
  omega

end

/-- Settles O44: the encoder's words, and each of the decoder's functions on them. -/
theorem descriptorCodec : Obligations.DescriptorCodec := by
  intro start len f h l wc a d
  obtain ⟨valid, chain, eom, setup, _, _⟩ := encodeDesc_flags start len f
  refine ⟨?_, ?_, neg16_eq_neg _, fun fits =>
    ⟨descStart_encodeDesc start len f, descLen_encodeDesc start len f fits, valid, chain, eom, setup⟩⟩
  · rw [encodeDesc_w1_toNat, flagWord_toNat, trimsLow_toNat, toNat_getLsbD_zero, evenBase_toNat]
  · show ((evenBase start).setWidth 16).toNat = _
    rw [BitVec.toNat_setWidth, evenBase_toNat]

end Sys2Proof.Machine
end

section
/-! A CSR write that ends no software reset (rules R82, R102, R113, R197, R208): the bits it stores, its edges, and the
receive walk it starts. -/

namespace Sys2Proof.Machine

variable {i : Inst} {c : Ctl} {p : Bool} {s : State} {d : Word}

/-! ### The stored bits -/

theorem rwMask_getLsbD : ∀ n < 16,
    Csr.rwMask.getLsbD n = decide (n = 10 ∨ n = 9 ∨ n = 8 ∨ n = 6 ∨ n = 3 ∨ n = 1 ∨ n = 0) := by decide

theorem w1cMask_getLsbD : ∀ n < 16, Csr.w1cMask.getLsbD n = decide (n = 15 ∨ n = 7) := by decide

theorem niMask_getLsbD : ∀ n < 16, Csr.niMask.getLsbD n = decide (n = 2) := by decide

/-- A written word over the stored CSR (rules R82, R113). -/
abbrev csrStored (csr d : Word) : Word := csrAfter csr (csrSetMask d) (csrClrMask d)

/-- A bit after a write, from the masks: set, cleared where it was written 0, cleared where a 1 clears it, and NI with
XI. -/
theorem csrStored_getLsbD (csr d : Word) {n : Nat} (hn : n < 16) :
    (csrStored csr d).getLsbD n
      = ((csr.getLsbD n || d.getLsbD n && Csr.rwMask.getLsbD n)
          && !(!d.getLsbD n && Csr.rwMask.getLsbD n || d.getLsbD n && Csr.w1cMask.getLsbD n
            || d.getLsbD Csr.XI && Csr.niMask.getLsbD n)) := by
  have ni : (if d.getLsbD Csr.XI then Csr.niMask else 0).getLsbD n = (d.getLsbD Csr.XI && Csr.niMask.getLsbD n) := by
    cases d.getLsbD Csr.XI
    · exact BitVec.getLsbD_zero
    · rfl
  simp only [csrStored, csrAfter, csrSetMask, csrClrMask, BitVec.getLsbD_and, BitVec.getLsbD_or, BitVec.getLsbD_not, hn,
    decide_true, Bool.true_and, ni]

/-- The bits of rule R82 by their numbers. -/
theorem csrStored_bits (csr d : Word) {n : Nat} (hn : n < 16) :
    (csrStored csr d).getLsbD n
      = if n = 10 ∨ n = 9 ∨ n = 8 ∨ n = 6 ∨ n = 3 ∨ n = 1 ∨ n = 0 then d.getLsbD n
        else if n = 15 ∨ n = 7 then csr.getLsbD n && !d.getLsbD n
        else if n = 2 then csr.getLsbD 2 && !d.getLsbD 7
        else csr.getLsbD n := by
  rw [csrStored_getLsbD csr d hn, rwMask_getLsbD n hn, w1cMask_getLsbD n hn, niMask_getLsbD n hn]
  split_ifs with written cleared ni
  · have apart : ¬(n = 15 ∨ n = 7) ∧ n ≠ 2 := by omega
    simp only [written, apart, decide_true, decide_false, Bool.and_true, Bool.and_false, Bool.or_false]
    cases csr.getLsbD n <;> cases d.getLsbD n <;> rfl
  · have apart : n ≠ 2 := by omega
    simp only [written, cleared, apart, decide_true, decide_false, Bool.and_true, Bool.and_false, Bool.or_false,
      Bool.false_or]
  · subst ni
    simp only [written, cleared, decide_true, decide_false, Bool.and_true, Bool.and_false, Bool.or_false, Bool.false_or]
  · simp only [written, cleared, ni, decide_false, Bool.and_false, Bool.or_false, Bool.not_false, Bool.and_true]

/-! ### The edges -/

/-- The sanity timer after the edges of SE (rules R102, R208). -/
def timersAfter (old new : Word) (sel : BitVec 3) (t : Timers) : Timers :=
  if old.getLsbD 10 = false ∧ new.getLsbD 10 = true then { t with sanCount := sanityQ sel, sanArmed := true }
  else if old.getLsbD 10 = true ∧ new.getLsbD 10 = false then { t with sanArmed := false }
  else t

theorem rises_iff {bit : Nat} {old new : Word} :
    rises bit old new = true ↔ old.getLsbD bit = false ∧ new.getLsbD bit = true := by simp [rises]

theorem falls_iff {bit : Nat} {old new : Word} :
    falls bit old new = true ↔ old.getLsbD bit = true ∧ new.getLsbD bit = false := by simp [falls]

theorem sanityEdgeCtl_timers (old new : Word) (c : Ctl) :
    sanityEdgeCtl old new c = c.setTimers (timersAfter old new c.setup.sanitySel c.timers) := by
  simp only [sanityEdgeCtl, timersAfter, rises_iff, falls_iff]
  split_ifs <;> rfl

theorem subscribedAfter_edges (old new : Word) (b : Bool) :
    subscribedAfter old new b
      = if old.getLsbD 0 = false ∧ new.getLsbD 0 = true then true
        else if old.getLsbD 0 = true ∧ new.getLsbD 0 = false then false
        else b := by
  simp only [subscribedAfter, rises_iff, falls_iff]

/-- What a change of the CSR does to the instance, but for its request. -/
def csrEdgesCtl (set clr : Word) (c : Ctl) : Ctl :=
  ((c.setCsr (csrAfter c.classic.csr set clr)).setTimers
    (timersAfter c.classic.csr (csrAfter c.classic.csr set clr) c.setup.sanitySel c.timers)).setRxSubscribed
      (subscribedAfter c.classic.csr (csrAfter c.classic.csr set clr) c.rxSubscribed)

/-- The edges of a CSR change, with the request that follows from it (rules R102, R197). -/
theorem csrEdges_withRequest (set clr : Word) (t : State) :
    csrEdges i set clr (t.withRequest i c p)
      = t.withRequest i (csrEdgesCtl set clr c)
          (requestAfter c.classic.csr (csrAfter c.classic.csr set clr) p) := by
  have edges : ∀ old new c, receiverEdgeCtl old new (sanityEdgeCtl old new c)
      = (c.setTimers (timersAfter old new c.setup.sanitySel c.timers)).setRxSubscribed
          (subscribedAfter old new c.rxSubscribed) := fun old new c => by
    rw [receiverEdgeCtl_eq, sanityEdgeCtl_timers]
    rfl
  unfold csrEdges
  simp only [State.withRequest_ctl, Ctl.setPending_classic, edges]
  rw [csrChange_withRequest, onCtl_withRequest rfl]
  rfl

/-! ### The write -/

/-- The write starts a receive walk exactly on the dispatch condition of rule R102. -/
theorem startsRxWalk_iff (c : Ctl) (d : Word) :
    (rises Csr.RE c.classic.csr (csrStored c.classic.csr d) && !(csrStored c.classic.csr d).getLsbD Csr.RL
      && !c.queue.readq.isEmpty) = true ↔ startsRxWalk c d := by
  have re := csrWrite_getLsbD (csr := c.classic.csr) (d := d) (n := Csr.RE) (by decide) (by decide) (by decide)
  rw [rises, re, csrWrite_rl]
  simp only [startsRxWalk, Bool.and_eq_true, Bool.not_eq_true', List.isEmpty_eq_false_iff, and_assoc]

theorem endState_bind_pure (m : Op Unit) (s : State) : endState (m >>= fun _ => pure ()) s = endState m s := by
  rw [endState, endState, op_bind]
  cases m s <;> rfl

/-- A write that does not take SR from 1 to 0: its edges, and the walk where it starts one. -/
theorem endState_writeCsr (h : (s.ctl i).classic.csr.getLsbD Csr.SR = false ∨ d.getLsbD Csr.SR = true) :
    endState (writeCsr i d) s
      = if startsRxWalk (s.ctl i) d then endState (rxDispatch i) (csrEdges i (csrSetMask d) (csrClrMask d) s)
        else csrEdges i (csrSetMask d) (csrClrMask d) s := by
  have sr := csrWrite_getLsbD (csr := (s.ctl i).classic.csr) (d := d) (n := Csr.SR) (by decide) (by decide) (by decide)
  have stays : falls Csr.SR (s.ctl i).classic.csr (csrStored (s.ctl i).classic.csr d) = false := by
    rw [falls, sr]
    rcases h with h | h <;> rw [h]
    · rfl
    · exact Bool.and_false _
  have write : writeCsr i d s
      = (if startsRxWalk (s.ctl i) d then rxDispatch i >>= fun _ => pure () else pure ())
          (csrEdges i (csrSetMask d) (csrClrMask d) s) := by
    rw [writeCsr, csrSetClr, op_bind_ok (getCtl_apply i s)]
    simp only [startsRxWalk_iff, stays, Bool.false_eq_true, if_false]
    rw [op_bind_ok (change_apply _ _)]
  rw [endState, write]
  split_ifs with walks
  · exact endState_bind_pure _ _
  · rfl

/-- Settles O14: the edges from the coordinator's form of the state, then the walk on the dispatch condition. -/
theorem csrWrite : Obligations.CsrWrite := by
  intro s i m d hm hmode hc c old hsr
  refine ⟨csrStored old d, fun n hn => csrStored_bits old d hn, ?_⟩
  have edges := csrEdges_withRequest (i := i) (c := c) (p := c.pending) (csrSetMask d) (csrClrMask d) s
  rw [State.eq_withRequest hc] at edges
  rw [exec_writeInstr_csr hm hmode, runOp, endState_writeCsr hsr, edges, csrEdgesCtl, subscribedAfter_edges]
  rfl

end Sys2Proof.Machine
end

section
/-! A write of a list base runs its walk (rules R109, R111, R140, R141, R147, R152): from the state with the pointer written
and the list valid, and to the end where the first descriptor decides it. -/

namespace Sys2Proof.Machine

variable {i : Inst} {c : Ctl} {s : State} {d : Word} {b : Addr}

/-! ### The write and its dispatch -/

theorem rxDispatch_of_valid (h : (s.ctl i).classic.csr.getLsbD Csr.RL = false) :
    rxDispatch i s = classicWalk i (rxPass i) s := by
  rw [rxDispatch, op_bind_ok (getCtl_apply i s), if_neg (Bool.eq_false_iff.1 h)]

theorem txDispatch_of_valid (h : (s.ctl i).classic.csr.getLsbD Csr.XL = false) (idle : (s.ctl i).tx.txpend = none) :
    txDispatch i s = classicWalk i (txPass i) s := by
  rw [txDispatch, op_bind_ok (getCtl_apply i s), h, idle]
  rfl

/-- After the pointer and RL are written, a write of RBDL_HI that is no handshake is the receive dispatch. -/
theorem writeRbdlHi_dispatches (hm : (s.ctl i).mode ≠ .turbo) (hr : RequestOk (s.ctl i))
    (hh : handshakes s.cfg i (s.ctl i) d = false) :
    writeRbdlHi i d s
      = rxDispatch i (s.setCtl i ((s.ctl i).withRxList (addrOf d (s.ctl i).classic.rbdlLo))) := by
  rw [writeRbdlHi_starts hm hr hh, rxDispatch_of_valid]
  rw [State.setCtl_ctl_same, Ctl.withRxList_rl]

/-- After the pointer and XL are written, a write of XBDL_HI with no message at the transport is the transmit dispatch. -/
theorem writeXbdlHi_dispatches (hm : (s.ctl i).mode ≠ .turbo) (hr : RequestOk (s.ctl i))
    (hp : (s.ctl i).tx.txpend = none) :
    writeXbdlHi i d s
      = txDispatch i (s.setCtl i ((s.ctl i).withTxList (addrOf d (s.ctl i).classic.xbdlLo))) := by
  rw [writeXbdlHi_starts hm hr hp, txDispatch_of_valid]
  · rw [State.setCtl_ctl_same, Ctl.withTxList_xl]
  · rw [State.setCtl_ctl_same]
    exact hp

/-! ### A walk that its first descriptor ends -/

/-- A walk over a list whose first descriptor is invalid fetches it and sets the list's bit. -/
theorem ListWalk.ends_at_first {pass : Unit → Op (Pass Unit)} {ptr : Classic → Addr} {setPtr : Ctl → Addr → Ctl}
    {endMask : Word} (w : ListWalk i pass ptr setPtr endMask) (hq : s.Quiet) (hcap : s.cfg.chainCap ≠ some 0)
    (hb : ptr c.classic = b) (ready : descReady s.cfg b = true) (invalid : descValid ((s.fetched b).descAt b) = false) :
    classicWalk i pass (s.setCtl i c) = .ok () (csrChange i endMask 0 ((s.fetched b).setCtl i c)) :=
  classicWalk_of_first (by rwa [State.setCtl_cfg]) (w.atInvalid hq hb ready invalid)

/-- At a valid descriptor that is no chain, with nothing queued, the receive walk has nothing to deliver and waits. -/
theorem rxPass_waits (hq : s.Quiet) (hb : c.classic.rptr = b) (ready : descReady s.cfg b = true)
    (valid : descValid ((s.fetched b).descAt b) = true) (noChain : descChain ((s.fetched b).descAt b) = false)
    (empty : c.queue.readq = []) :
    rxPass i () (s.setCtl i c) = .ok (.ended ()) ((s.fetched b).setCtl i c) := by
  subst hb
  rw [rxPass, op_bind_ok (getCtl_apply i _), State.setCtl_ctl_same, op_bind_ok (fetchDesc_setCtl ready hq)]
  simp only [valid, noChain, empty, Bool.not_true, Bool.false_eq_true, if_false]
  rfl

/-- Settles O19: the dispatch from the list just made valid, and the two ways its first descriptor ends it. -/
theorem receiveListWrite : Obligations.ReceiveListWrite := by
  intro s i m d hm hmode hr noShake c b s0 valid
  have classic : (s.ctl i).mode ≠ .turbo := hmode ▸ hm
  have hh := handshakes_eq_false hmode noShake
  rw [exec_writeInstr_rbdlHi hm hmode]
  refine ⟨?_, fun hq hcap ready => ⟨fun invalid => ?_, fun isValid noChain empty => ?_⟩⟩
  · rw [runOp, endState, writeRbdlHi_dispatches classic hr hh]
    rfl
  · have walk := (rxListWalk i).ends_at_first (c := c.withRxList b) hq hcap rfl ready invalid
    have ended := csrChange_rxListEnd (i := i) classic hr s0 b b
    exact runOp_of_ok ((writeRbdlHi_starts classic hr hh).trans (walk.trans (congrArg (EStateM.Result.ok ()) ended)))
  · have pass := rxPass_waits (i := i) (c := c.withRxList b) hq rfl ready isValid noChain empty
    exact runOp_of_ok ((writeRbdlHi_starts classic hr hh).trans
      (classicWalk_of_first (by rwa [State.setCtl_cfg]) pass))

/-- Settles O21: the dispatch from the list just made valid, and its end at an invalid descriptor. -/
theorem transmitListWrite : Obligations.TransmitListWrite := by
  intro s i m d hm hmode hr idle c b s0
  have classic : (s.ctl i).mode ≠ .turbo := hmode ▸ hm
  rw [exec_writeInstr_xbdlHi hm hmode]
  refine ⟨?_, fun hq hcap ready invalid => ?_⟩
  · rw [runOp, endState, writeXbdlHi_dispatches classic hr idle]
    rfl
  · have walk := (txListWalk i).ends_at_first (c := c.withTxList b) hq hcap rfl ready invalid
    have ended := csrChange_txListEnd (i := i) classic hr s0 b b
    exact runOp_of_ok ((writeXbdlHi_starts classic hr idle).trans (walk.trans (congrArg (EStateM.Result.ok ()) ended)))

end Sys2Proof.Machine
end

section
/-! A START whose init block can be read (rules R96, R122, R133 to R137, R165, R209): the block is read whole, its values
stored, the rings started and their request latched. -/

namespace Sys2Proof.Machine

variable {i : Inst} {c : Ctl} {p : Bool} {s : State} {a : Addr}

/-! ### The init block -/

theorem readRingBase_of_ready {pos : Nat} {low high : Addr} (hl : wordReady s.cfg low = true)
    (hh : wordReady s.cfg high = true) (hq : s.Quiet) :
    readRingBase i pos low high s = .ok (splitAddr pos (s.wordAt high) (s.wordAt low)) s := by
  rw [readRingBase, op_bind_ok (readWord_of_ready hl hq), op_bind_ok (readWord_of_ready hh hq)]
  rfl

/-- An init block whose words and bytes are all there is read as memory holds it, and reading it changes nothing. -/
theorem readInitBlock_of_ready (h : initReady s.cfg a = true) (hq : s.Quiet) :
    readInitBlock i s.cfg.layout a s = .ok (s.initAt a) s := by
  simp only [initReady, initWords, List.all_cons, List.all_nil, Bool.and_true, Bool.and_eq_true] at h
  obtain ⟨⟨⟨⟨flags, opts, vector, timeout, rx, rxHi, tx, txHi⟩, phys⟩, hash⟩, password⟩ := h
  rw [readInitBlock, op_bind_ok (readWord_of_ready flags hq), op_bind_ok (readBytes_of_backed phys hq),
    op_bind_ok (readBytes_of_backed hash hq), op_bind_ok (readWord_of_ready opts hq),
    op_bind_ok (readWord_of_ready vector hq), op_bind_ok (readWord_of_ready timeout hq),
    op_bind_ok (readBytes_of_backed password hq), op_bind_ok (readRingBase_of_ready rx rxHi hq),
    op_bind_ok (readRingBase_of_ready tx txHi hq)]
  rfl

/-- The filter an init block sets, as it is emitted (rule R135). -/
def filterEvent (i : Inst) (l : TurboLayout) (r : InitRead) : OutEvent :=
  .filterHash i r.block.phys (r.block.flags.getLsbD l.prom) r.block.hash

theorem State.addEvent_withRequest (t : State) (e : OutEvent) :
    (t.withRequest i c p).addEvent e = (t.addEvent e).withRequest i c p := by cases i <;> rfl

/-- The init block loaded: its values stored and its filter emitted (rules R133 to R135). -/
theorem initBlockLoad_of_ready (hc : coordinatorOk s = true) (h : initReady s.cfg (s.ctl i).turbo.iba = true)
    (hq : s.Quiet) :
    initBlockLoad i s = .ok ()
      ((s.addEvent (filterEvent i s.cfg.layout (s.initAt (s.ctl i).turbo.iba))).withRequest i
        (initCtl s.cfg.layout (s.initAt (s.ctl i).turbo.iba) (s.ctl i)) (s.ctl i).pending) := by
  have stored : onCtl i (initCtl s.cfg.layout (s.initAt (s.ctl i).turbo.iba)) s
      = s.withRequest i (initCtl s.cfg.layout (s.initAt (s.ctl i).turbo.iba) (s.ctl i)) (s.ctl i).pending :=
    State.setCtl_eq_withRequest hc rfl
  rw [initBlockLoad, op_bind_ok (getCfg_apply s), op_bind_ok (getCtl_apply i s),
    op_bind_ok (readInitBlock_of_ready h hq), op_bind_ok (changeCtl_apply i _ s), stored, emit_apply,
    State.addEvent_withRequest]
  rfl

/-! ### The rings started -/

/-- With nothing queued the receive ring's walk consumes no slot, and latches nothing. -/
theorem ringRx_of_empty (h : (s.ctl i).queue.readq = []) : ringRx i s = .ok () s := by
  have pass : ringRxPass i 0 s = .ok (.ended 0) s := by
    rw [ringRxPass, op_bind_ok (getCtl_apply i s), op_bind_ok (getCfg_apply s), h]
    rfl
  rw [ringRx, op_bind_ok (getCtl_apply i s)]
  split_ifs
  · rw [op_bind_ok (freeWalk_of_first pass)]
    rfl
  · rfl

/-- The sanity timer's reload in turbo mode (rules R137, R209). -/
theorem sanityReload_withRequest (hm : c.mode = .turbo) (t : State) :
    sanityReload i (t.withRequest i c p)
      = .ok () (t.withRequest i (c.setTimers (turboReload c.init.timeout c.timers)) p) := by
  have reload : ∀ b : Ctl, b.mode = .turbo → sanityReloadCtl b = b.setTimers (turboReload b.init.timeout b.timers) :=
    fun b hb => by
      rw [sanityReloadCtl, if_pos hb, turboReload]
      split_ifs <;> rfl
  have reloaded := onCtl_withRequest (i := i) (c := c) (p := p) (f := sanityReloadCtl)
    (by rw [reload c hm, reload (c.setPending p) hm]; rfl) t
  rw [sanityReload, changeCtl_apply, reloaded, reload c hm]

theorem initCtl_eq (l : TurboLayout) (r : InitRead) (c : Ctl) :
    initCtl l r c = { c with
      init := r.block
      turbo := { c.turbo with rxRingBase := r.rxRing, txRingBase := r.txRing }
      setup :=
        { c.setup with
          filters := [r.block.phys], allMulticast := false, promiscuous := r.block.flags.getLsbD l.prom } } := rfl

theorem startedCtl_eq (c : Ctl) :
    startedCtl c = { c with
      turbo :=
        { c.turbo with
          rxIdx := 0, txIdx := 0, ringsStarted := true
          srr := { c.turbo.srr with fes := false, nxm := false, rsp := 1 } }
      rxSubscribed := true } := rfl

/-- The instance after START has read `r`, its latch and request apart (rules R133, R134, R165). -/
theorem startedCtl_initCtl (l : TurboLayout) (r : InitRead) (c : Ctl) :
    startedCtl (initCtl l r c)
      = { c with
          init := r.block
          turbo :=
            { c.turbo with
              rxRingBase := r.rxRing, txRingBase := r.txRing, rxIdx := 0, txIdx := 0, ringsStarted := true
              srr := { c.turbo.srr with fes := false, nxm := false, rsp := 1 } }
          setup :=
            { c.setup with
              filters := [r.block.phys], allMulticast := false, promiscuous := r.block.flags.getLsbD l.prom }
          rxSubscribed := true } := by
  rw [initCtl_eq, startedCtl_eq]

theorem startedCtl_setPending (c : Ctl) (p : Bool) : startedCtl (c.setPending p) = (startedCtl c).setPending p := rfl

/-- START with an idle transmitter, a readable init block and nothing queued. -/
theorem turboStart_of_ready (hc : coordinatorOk s = true) (idle : (s.ctl i).tx.txpend = none)
    (empty : (s.ctl i).queue.readq = []) (h : initReady s.cfg (s.ctl i).turbo.iba = true) (hq : s.Quiet) :
    turboStart i s = .ok ()
      ((s.addEvent (filterEvent i s.cfg.layout (s.initAt (s.ctl i).turbo.iba))).withRequest i
        ((startedCtl (initCtl s.cfg.layout (s.initAt (s.ctl i).turbo.iba) (s.ctl i))).setTlatch true)
        (s.ctl i).turbo.icrEn) := by
  rw [turboStart, op_bind_ok (getCtl_apply i s)]
  simp only [idle, Option.isSome_none, Bool.false_eq_true, if_false]
  rw [op_bind_ok (initBlockLoad_of_ready hc h hq), op_bind_ok (changeCtl_apply i _ _),
    onCtl_withRequest (startedCtl_setPending _ _), op_bind_ok (change_apply _ _), latchTurbo_withRequest]
  refine ringRx_of_empty ?_
  rw [State.withRequest_ctl]
  exact empty

theorem exec_tWrSrqr {d : Word} (h : (s.ctl i).mode = .turbo) : exec (.tWrSrqr i d) s = runOp (writeSrqr i d) s :=
  if_pos h

/-- Settles O31: the start of the rings, and then the reload of the sanity timer from the new timeout. -/
theorem startCompletes : Obligations.StartCompletes := by
  intro s i d hm hc start idle empty hq c r prom ready
  have turbo : ((startedCtl (initCtl s.cfg.layout r c)).setTlatch true).mode = .turbo := by
    rw [startedCtl_initCtl]
    exact hm
  rw [exec_tWrSrqr hm]
  refine runOp_of_ok ?_
  rw [writeSrqr, op_bind_ok (getCfg_apply s), if_pos start, op_bind_ok (turboStart_of_ready hc idle empty ready hq),
    sanityReload_withRequest turbo, startedCtl_initCtl, State.addEvent_withRequest]
  rfl

end Sys2Proof.Machine
end

section
/-! The register window (rules R76, R98, R103 to R106, R115 to R117): the operation each access runs, and what the reads
yield. -/

namespace Sys2Proof.Machine

variable {i : Inst} {m : Mode} {s : State}

/-! ### The accesses -/

/-- The operation that a read of a slot runs in a mode (rules R103 to R106, R115 to R117). -/
def readOp (m : Mode) (slot : Fin 8) (i : Inst) : Op Unit :=
  match m with
  | .turbo =>
    [readStation i 0, readStation i 1, readStation i 2, readStation i 3, readStation i 4, readStation i 5, readSrr i,
      readReserved][slot]
  | _ =>
    [readStationOrCheck i 0, readStationOrCheck i 1, readStation i 2, readStation i 3, readStation i 4, readStation i 5,
      readVar i, readCsr i][slot]

/-- The operation that a write of a slot runs in a mode (rules R107 to R113, R118 to R123). -/
def writeOp (m : Mode) (slot : Fin 8) (i : Inst) (d : Word) : Op Unit :=
  match m with
  | .turbo =>
    [writeIgnored, writeIgnored, writeIbaLo i d, writeIbaHi i d, writeIcr i d, writeIgnored, writeSrqr i d,
      writeArqr i d][slot]
  | _ =>
    [writeIgnored, writeIgnored, writeRbdlLo i d, writeRbdlHi i d, writeXbdlLo i d, writeXbdlHi i d, writeVar i d,
      writeCsr i d][slot]

/-- The two classic modes share their operations. -/
theorem readOp_classic (hm : m ≠ .turbo) (slot : Fin 8) (i : Inst) : readOp m slot i = readOp .compatible slot i := by
  cases m with
  | turbo => exact absurd rfl hm
  | legacy | compatible => rfl

theorem writeOp_classic (hm : m ≠ .turbo) (slot : Fin 8) (i : Inst) (d : Word) :
    writeOp m slot i d = writeOp .compatible slot i d := by
  cases m with
  | turbo => exact absurd rfl hm
  | legacy | compatible => rfl

theorem exec_readInstr (h : (s.ctl i).mode = m) (slot : Fin 8) :
    exec (readInstr m slot i) s = runOp (readOp m slot i) s := by
  have arm : exec (readInstr m slot i) s = inMode m i (readOp m slot i) s := by cases m <;> fin_cases slot <;> rfl
  rw [arm, inMode, if_pos h]

theorem exec_writeInstr (h : (s.ctl i).mode = m) (slot : Fin 8) (d : Word) :
    exec (writeInstr m slot i d) s = runOp (writeOp m slot i d) s := by
  have arm : exec (writeInstr m slot i d) s = inMode m i (writeOp m slot i d) s := by
    cases m <;> fin_cases slot <;> rfl
  rw [arm, inMode, if_pos h]

theorem decode_readRecord (m : Mode) (slot : Fin 8) (i : Inst) :
    decode [accessCode m false slot, instByte i] = .ok (readInstr m slot i) := by
  rw [← encode_readInstr]
  exact decode_encode (readInstr_wellFormed m slot i)

theorem decode_writeRecord (m : Mode) (slot : Fin 8) (i : Inst) (d : Word) :
    decode [accessCode m true slot, instByte i, lowByte d, highByte d] = .ok (writeInstr m slot i d) := by
  rw [← encode_writeInstr]
  exact decode_encode (writeInstr_wellFormed m slot i d)

/-- Slots 0 to 5 read the station address, the checksum only in slots 0 and 1 of a classic mode. -/
theorem readOp_station {k : Fin 8} (hk : k.val < 6) :
    readOp m k i = if m ≠ .turbo ∧ k.val < 2 then readStationOrCheck i k else readStation i k := by
  obtain ⟨k, hk8⟩ := k
  have slots : k = 0 ∨ k = 1 ∨ k = 2 ∨ k = 3 ∨ k = 4 ∨ k = 5 := by simp only at hk; omega
  rcases slots with rfl | rfl | rfl | rfl | rfl | rfl <;> cases m <;> rfl

/-! ### What the reads yield -/

theorem readStation_apply (i : Inst) (k : Nat) (s : State) :
    readStation i k s
      = .ok () (s.nextDraw.setYield (.data (Config.freeByte s.draws ++ macByte (s.unit i).mac k))) := rfl

theorem readStationOrCheck_apply (i : Inst) (k : Nat) (s : State) :
    readStationOrCheck i k s
      = .ok () (s.nextDraw.setYield (.data (Config.freeByte s.draws ++
          (if (s.ctl i).classic.csr.getLsbD Csr.EL then chkByte (s.unit i).mac k else macByte (s.unit i).mac k)))) := rfl

theorem readVar_apply (i : Inst) (s : State) :
    readVar i s = .ok () (s.setYield (.data (s.ctl i).classic.var)) := rfl

theorem readCsr_apply (i : Inst) (s : State) :
    readCsr i s
      = .ok () (s.nextDraw.setYield (.data
          (csrRead (s.ctl i).classic.csr (Config.freeBit s.draws) (s.unit i).attached))) := rfl

theorem readSrr_apply (i : Inst) (s : State) :
    readSrr i s = .ok () (s.setYield (.data (srrWord s.cfg.layout (s.ctl i).turbo.srr))) := rfl

theorem readReserved_apply (s : State) :
    readReserved s = .ok () (s.nextDraw.setYield (.data (Config.freeWord s.draws))) := rfl

/-- The computed bits of CSR over the stored ones (rule R106). -/
theorem csrRead_getLsbD (csr : Word) (carrier attached : Bool) {n : Nat} (hn : n < 16) :
    (csrRead csr carrier attached).getLsbD n
      = if n = 14 then false else if n = 13 then carrier else if n = 12 then attached else if n = 11 then false
        else csr.getLsbD n := by
  have computed : ∀ n < 16, (Csr.computedMask).getLsbD n = decide (n = 14 ∨ n = 13 ∨ n = 12 ∨ n = 11) := by decide
  simp only [csrRead, BitVec.getLsbD_or, BitVec.getLsbD_and, BitVec.getLsbD_not, bitWord_getLsbD, computed n hn, hn,
    decide_true, Nat.reduceLT, Bool.true_and]
  split_ifs with pe ca ok rr
  · simp [pe]
  · simp [ca]
  · simp [ok]
  · simp [rr]
  · simp [pe, ca, ok, rr, Ne.symm ca, Ne.symm ok]

/-! ### The response register -/

/-- The fields of SRR lie inside the word and apart from each other (rule R94). -/
theorem srrPlaces {l : TurboLayout} (h : l.wellFormed = true) :
    (l.srrFes < 16 ∧ l.srrNxm < 16 ∧ l.srrTa < 16 ∧ l.srrRsp + 1 < 16)
      ∧ [l.srrFes, l.srrNxm, l.srrTa, l.srrRsp, l.srrRsp + 1].Nodup := by
  simp only [TurboLayout.wellFormed, Bool.and_eq_true, and_assoc] at h
  obtain ⟨_, _, _, srr, _⟩ := h
  have places : [l.srrFes, l.srrNxm, l.srrTa] ++ fieldBits l.srrRsp 2
      = [l.srrFes, l.srrNxm, l.srrTa, l.srrRsp, l.srrRsp + 1] := rfl
  rw [places, bitsFit, Bool.and_eq_true] at srr
  obtain ⟨apart, inside⟩ := srr
  simp only [List.all_cons, List.all_nil, Bool.and_true, Bool.and_eq_true, decide_eq_true_eq] at inside
  obtain ⟨fes, nxm, ta, _, rsp⟩ := inside
  exact ⟨⟨fes, nxm, ta, rsp⟩, of_decide_eq_true apart⟩

/-- The two bits of a two-bit field (rule R11). -/
theorem fieldWord_two_getLsbD {lo : Nat} (hlo : lo + 1 < 16) (r : BitVec 2) (n : Nat) :
    (fieldWord lo 2 r.toNat).getLsbD n
      = if n = lo then r.getLsbD 0 else if n = lo + 1 then r.getLsbD 1 else false := by
  rw [fieldWord, BitVec.getLsbD_ofNat, Nat.testBit_mul_two_pow, Nat.testBit_mod_two_pow, BitVec.testBit_toNat]
  split_ifs with low high
  · subst low
    simp [Nat.lt_of_succ_lt hlo]
  · subst high
    simp [hlo]
  · by_cases below : lo ≤ n
    · have above : ¬n - lo < 2 := by omega
      simp [above]
    · simp [below]

/-- A read of SRR bit by bit (rules R94, R116). -/
theorem srrWord_getLsbD {l : TurboLayout} (h : l.wellFormed = true) (r : Srr) (n : Nat) :
    (srrWord l r).getLsbD n
      = if n = l.srrFes then r.fes
        else if n = l.srrNxm then r.nxm
        else if n = l.srrTa then r.ta
        else if n = l.srrRsp then r.rsp.getLsbD 0
        else if n = l.srrRsp + 1 then r.rsp.getLsbD 1
        else false := by
  obtain ⟨⟨fes, nxm, ta, rsp⟩, apart⟩ := srrPlaces h
  simp only [List.nodup_cons, List.mem_cons, List.not_mem_nil, or_false, not_or] at apart
  obtain ⟨⟨fn, ft, fr, fs⟩, ⟨nt, nr, ns⟩, ⟨tr, ts⟩, _⟩ := apart
  rw [srrWord, BitVec.getLsbD_or, BitVec.getLsbD_or, BitVec.getLsbD_or, bitWord_getLsbD, bitWord_getLsbD,
    bitWord_getLsbD, fieldWord_two_getLsbD rsp]
  by_cases isFes : n = l.srrFes
  · subst isFes
    simp [fes, fr, fs, Ne.symm fn, Ne.symm ft]
  by_cases isNxm : n = l.srrNxm
  · subst isNxm
    simp [nxm, fn, nr, ns, Ne.symm fn, Ne.symm nt]
  by_cases isTa : n = l.srrTa
  · subst isTa
    simp [ta, ft, nt, tr, ts, Ne.symm ft, Ne.symm nt]
  simp [isFes, isNxm, isTa, Ne.symm isFes, Ne.symm isNxm, Ne.symm isTa]

/-! ### The statements -/

/-- Settles O7: the station slots of the classic modes, the checksum byte where the slot has one and EL is set. -/
theorem classicStationReads : Obligations.ClassicStationReads := by
  intro s i m k hm hk hmode
  refine ⟨decode_readRecord m k i, Config.freeByte s.draws, ?_⟩
  rw [exec_readInstr hmode, readOp_station hk]
  by_cases check : k.val < 2
  · rw [if_pos ⟨hm, check⟩, runOp_of_ok (readStationOrCheck_apply i k s)]
    simp only [check, true_and]
  · rw [if_neg fun h => check h.2, runOp_of_ok (readStation_apply i k s), if_neg fun h => check h.1]

/-- Settles O8: VAR is yielded as it is stored, CSR with its computed bits. -/
theorem classicRegisterReads : Obligations.ClassicRegisterReads := by
  intro s i m hm hmode
  refine ⟨decode_readRecord m 6 i, ?_, fun ⟨⟨_, var0, _⟩, ⟨_, var1, _⟩⟩ => ?_, decode_readRecord m 7 i, _, _, ?_,
    fun n hn => csrRead_getLsbD (s.ctl i).classic.csr (Config.freeBit s.draws) (s.unit i).attached hn⟩
  · rw [exec_readInstr hmode, readOp_classic hm]
    exact runOp_of_ok (readVar_apply i s)
  · cases i with
    | i0 => exact var0
    | i1 => exact var1
  · rw [exec_readInstr hmode, readOp_classic hm]
    exact runOp_of_ok (readCsr_apply i s)

/-- Settles O9: the turbo slots, the response register bit by bit. -/
theorem turboReads : Obligations.TurboReads := by
  intro s i hmode l r
  refine ⟨fun k => decode_readRecord .turbo k i, fun k hk => ⟨Config.freeByte s.draws, ?_⟩,
    ⟨srrWord l r, ?_, fun wf modes => ?_, fun wf n _ => srrWord_getLsbD wf r n⟩, Config.freeWord s.draws, ?_⟩
  · rw [exec_readInstr hmode, readOp_station hk, if_neg fun h => h.1 rfl, runOp_of_ok (readStation_apply i k s)]
  · exact (exec_readInstr hmode 6).trans (runOp_of_ok (readSrr_apply i s))
  · obtain ⟨⟨_, _, _, ta0⟩, ⟨_, _, _, ta1⟩⟩ := modes
    have ta : r.ta = true := by
      cases i with
      | i0 => exact ta0.2 hmode
      | i1 => exact ta1.2 hmode
    obtain ⟨⟨_, _, place, _⟩, _⟩ := srrPlaces wf
    simp only [srrWord, BitVec.getLsbD_or, bitWord_getLsbD, ta, place, decide_true, Bool.and_true, Bool.or_true,
      Bool.true_or]
  · exact (exec_readInstr hmode 7).trans (runOp_of_ok (readReserved_apply s))

end Sys2Proof.Machine
end

section
/-! The register writes without a walk (rules R98, R107, R108, R110 to R112, R114, R118 to R121): what each stores, and the two
faults of a write while a message is with the transport (rules R111, R165, R225). -/

namespace Sys2Proof.Machine

variable {i : Inst} {c : Ctl} {p : Bool} {s : State} {d : Word}

/-! ### Ignored and latching writes -/

theorem writeOp_ignored {m : Mode} {k : Fin 8} (h : k.val = 0 ∨ k.val = 1 ∨ (m = .turbo ∧ k.val = 5)) :
    writeOp m k i d = writeIgnored := by
  obtain ⟨k, hk⟩ := k
  rcases h with rfl | rfl | ⟨rfl, rfl⟩
  · cases m <;> rfl
  · cases m <;> rfl
  · rfl

/-- Settles O10: each of these slots runs the write that does nothing. -/
theorem ignoredWrites : Obligations.IgnoredWrites := by
  intro s i m k d ignored hmode
  refine ⟨decode_writeRecord m k i d, ?_⟩
  rw [exec_writeInstr hmode, writeOp_ignored ignored]
  rfl

/-- The six bits of a high half over a low half (rules R80, R81). -/
theorem addrOf_eq_ofNat (d lo : Word) : addrOf d lo = BitVec.ofNat 22 (d.toNat % 64 * 65536 + lo.toNat) := by
  have low := lo.isLt
  apply BitVec.eq_of_toNat_eq
  rw [addrOf, BitVec.toNat_append, ← Nat.shiftLeft_add_eq_or_of_lt low, Nat.shiftLeft_eq, BitVec.toNat_setWidth,
    BitVec.toNat_ofNat]
  omega

/-- Settles O11: each write is one update of the instance. -/
theorem latchWrites : Obligations.LatchWrites := by
  intro s i d c
  refine ⟨fun m hm hmode => ?_, fun hmode => ?_⟩
  · refine ⟨decode_writeRecord m 2 i d, ?_, decode_writeRecord m 4 i d, ?_⟩
    · rw [exec_writeInstr hmode, writeOp_classic hm]
      rfl
    · rw [exec_writeInstr hmode, writeOp_classic hm]
      rfl
  · refine ⟨decode_writeRecord .turbo 2 i d, exec_writeInstr hmode 2 d, decode_writeRecord .turbo 3 i d, ?_⟩
    rw [← addrOf_eq_ofNat]
    exact exec_writeInstr hmode 3 d

/-! ### VAR -/

theorem varMask_getLsbD (type : DeviceType) :
    ∀ n < 16, (varMask type).getLsbD n
      = decide ((2 ≤ n ∧ n ≤ 9) ∨ type ≠ .legacy ∧ (n = 15 ∨ n = 13 ∨ n = 0)) := by
  cases type <;> decide

theorem rsMask_getLsbD : ∀ n < 16, (0x2000 : Word).getLsbD n = decide (n = 13) := by decide

/-- A bit of VAR that a write can write takes the data, RS only to 1 (rule R112). -/
theorem varAfter_getLsbD_of_mask {type : DeviceType} {n : Nat} (var d : Word) (hn : n < 16)
    (h : (varMask type).getLsbD n = true) :
    (varAfter type var d).getLsbD n = (d.getLsbD n || var.getLsbD n && decide (n = 13)) := by
  simp only [varAfter, BitVec.getLsbD_or, BitVec.getLsbD_and, BitVec.getLsbD_not, h, rsMask_getLsbD n hn, Bool.not_true,
    Bool.and_false, Bool.and_true, Bool.false_or]

/-- VAR after a write, by the numbers of its bits (rule R112). -/
theorem varAfter_bits (type : DeviceType) (var d : Word) {n : Nat} (hn : n < 16) :
    (varAfter type var d).getLsbD n
      = if 2 ≤ n ∧ n ≤ 9 then d.getLsbD n
        else if type ≠ .legacy ∧ (n = 15 ∨ n = 0) then d.getLsbD n
        else if type ≠ .legacy ∧ n = 13 then var.getLsbD 13 || d.getLsbD 13
        else var.getLsbD n := by
  have mask := varMask_getLsbD type n hn
  split_ifs with vector choice rs
  · have apart : n ≠ 13 := by omega
    rw [varAfter_getLsbD_of_mask var d hn (by simpa [mask] using .inl vector), decide_eq_false apart, Bool.and_false,
      Bool.or_false]
  · have apart : n ≠ 13 := by omega
    rw [varAfter_getLsbD_of_mask var d hn (by simp [mask, choice.1]; omega), decide_eq_false apart, Bool.and_false,
      Bool.or_false]
  · obtain ⟨other, rfl⟩ := rs
    rw [varAfter_getLsbD_of_mask var d hn (by simp [mask, other]), decide_eq_true rfl, Bool.and_true, Bool.or_comm]
  · refine varAfter_getLsbD (mask.trans (decide_eq_false ?_))
    rintro (written | ⟨other, isMs | isRs | isId⟩)
    · exact vector written
    · exact choice ⟨other, .inl isMs⟩
    · exact rs ⟨other, isRs⟩
    · exact choice ⟨other, .inr isId⟩

/-- Settles O12: the value written is `varAfter`, and the mode is the one it selects. -/
theorem varWrite : Obligations.VarWrite := by
  intro s i m d hm hmode
  refine ⟨decode_writeRecord m 6 i d, varAfter (s.unit i).type (s.ctl i).classic.var d, ?_,
    fun n hn => varAfter_bits (s.unit i).type (s.ctl i).classic.var d hn⟩
  rw [exec_writeInstr hmode, writeOp_classic hm, ← hmode]
  rfl

/-- RS is 0 and ST the result after a self-test (rule R114). -/
theorem varTested_bits (var : Word) (r : BitVec 3) {n : Nat} (hn : n < 16) :
    (varTested var r).getLsbD n
      = if n = 13 then false else if 10 ≤ n ∧ n ≤ 12 then r.getLsbD (n - 10) else var.getLsbD n := by
  have cleared : ∀ n < 16, 10 ≤ n → n ≤ 13 → (0xC3FF : Word).getLsbD n = false := by decide
  have field : 10 ≤ n → n ≤ 13 → (varTested var r).getLsbD n = r.getLsbD (n - 10) := fun low high => by
    have below : ¬n < 10 := by omega
    have inside : n - 10 < 16 := by omega
    have e : varTested var r = (var &&& (0xC3FF : Word)) ||| (r.setWidth 16 <<< 10) := rfl
    rw [e, BitVec.getLsbD_or, BitVec.getLsbD_and, cleared n hn low high, BitVec.getLsbD_shiftLeft,
      BitVec.getLsbD_setWidth]
    simp [hn, below, inside]
  split_ifs with rs st
  · rw [field (by omega) (by omega), BitVec.getLsbD_of_ge _ _ (by omega)]
  · exact field st.1 (by omega)
  · exact varTested_getLsbD (by omega)

/-- Settles O13: the value of VAR is `varTested` of the configured result. -/
theorem selfTestDone_result : Obligations.SelfTestDone := by
  intro s i rs
  exact ⟨decodeInst_instByte .stdone i, _, if_pos rs, fun n hn => varTested_bits _ _ hn⟩

/-! ### Writes while a message is with the transport -/

/-- Settles O23: both writes end at their first check, and a faulted block has stopped. -/
theorem faultWhileSending : Obligations.FaultWhileSending := by
  intro s i d sending
  refine ⟨fun m hm hmode => ?_, fun hmode start => ?_, fun r => step_of_fault rfl⟩
  · have fault : writeXbdlHi i d s = .error (.faulted .bdlRewriteWhileSending) (s.setFault .bdlRewriteWhileSending) := by
      rw [writeXbdlHi, op_bind_ok (getCtl_apply i s)]
      simp only [sending, if_true]
      exact op_bind_error (faultStop_apply _ s)
    rw [exec_writeInstr_xbdlHi hm hmode, runOp_of_error fault]
  · have fault : turboStart i s = .error (.faulted .startWhileSending) (s.setFault .startWhileSending) := by
      rw [turboStart, op_bind_ok (getCtl_apply i s)]
      simp only [sending, if_true]
      exact op_bind_error (faultStop_apply _ s)
    have write : writeSrqr i d s = .error (.faulted .startWhileSending) (s.setFault .startWhileSending) := by
      rw [writeSrqr, op_bind_ok (getCfg_apply s), if_pos start]
      exact op_bind_error fault
    rw [exec_tWrSrqr hmode, runOp_of_error write]

/-! ### ICR -/

/-- The turbo request stands exactly while it is enabled and latched (rule R198). -/
theorem intTurbo_withRequest (t : State) :
    intTurbo i (t.withRequest i c p) = t.withRequest i c (c.turbo.icrEn && c.turbo.tlatch) := by
  rw [intTurbo, State.withRequest_ctl, Ctl.setPending_turbo]
  cases c.turbo.icrEn && c.turbo.tlatch
  · exact clrInt_withRequest t
  · exact setInt_withRequest t

/-- Settles O30: the enable is stored, and the request follows from it and the latch. -/
theorem icrWrite : Obligations.IcrWrite := by
  intro s i d hmode hc c en
  have stored : onCtl i (·.setIcrEn en) s = s.withRequest i (c.setIcrEn en) c.pending :=
    State.setCtl_eq_withRequest hc rfl
  refine ⟨decode_writeRecord .turbo 4 i d, (exec_writeInstr hmode 4 d).trans (runOp_of_ok (m := writeIcr i d) ?_)⟩
  rw [writeIcr, op_bind_ok (getCfg_apply s), op_bind_ok (changeCtl_apply i _ s), stored, change_apply,
    intTurbo_withRequest]
  rfl

end Sys2Proof.Machine
end

section
/-! The two request registers of turbo mode (rules R122, R123, R133, R165, R170, R171, R189): a START whose init block is
not there, and the requests of the rings that serve nothing or hand a packet off. -/

namespace Sys2Proof.Machine

variable {i : Inst} {c : Ctl} {p : Bool} {s t : State} {d : Word} {a : Addr}

/-! ### SRQR -/

theorem readWord_of_unbacked {ctx : NxmCtx} (even : a.getLsbD 0 = false) (h : wordBacked s.cfg a = false)
    (hq : s.Quiet) : readWord i ctx a s = .error (.nxm ctx) (nxmState i ctx s) := by
  rcases readWord_cases i ctx a s with ⟨odd, _⟩ | ⟨ready, _⟩ | ⟨_, _, e⟩
  · rw [even] at odd; cases odd
  · rw [wordReady, h, Bool.and_false] at ready; cases ready
  · rw [e, observe_of_nil hq]

/-- A memory error of the init block: START's failure over NXM_T, latched (rules R165, R189). -/
theorem nxmState_initBlock_withRequest (t : State) :
    nxmState i .initBlock (t.withRequest i c p)
      = t.withRequest i ((nxmTurboCtl (startFailed c)).setTlatch true) c.turbo.icrEn := by
  have failed : nxmState i .initBlock (t.withRequest i c p)
      = latchTurbo i (onCtl i nxmTurboCtl (onCtl i startFailed (t.withRequest i c p))) := rfl
  rw [failed, onCtl_withRequest rfl, onCtl_withRequest rfl, latchTurbo_withRequest]
  rfl

/-- A START whose init block is not there ends at the block's first word. -/
theorem writeSrqr_of_unbacked (start : d.getLsbD s.cfg.layout.srqStart = true) (idle : (s.ctl i).tx.txpend = none)
    (hq : s.Quiet) (even : (offsetAddr (s.ctl i).turbo.iba s.cfg.layout.ibFlags).getLsbD 0 = false)
    (h : wordBacked s.cfg (offsetAddr (s.ctl i).turbo.iba s.cfg.layout.ibFlags) = false) :
    writeSrqr i d s = .error (.nxm .initBlock) (nxmState i .initBlock s) := by
  have load : initBlockLoad i s = .error (.nxm .initBlock) (nxmState i .initBlock s) := by
    rw [initBlockLoad, op_bind_ok (getCfg_apply s), op_bind_ok (getCtl_apply i s)]
    exact op_bind_error (op_bind_error (readWord_of_unbacked even h hq))
  have started : turboStart i s = .error (.nxm .initBlock) (nxmState i .initBlock s) := by
    rw [turboStart, op_bind_ok (getCtl_apply i s)]
    simp only [idle, Option.isSome_none, Bool.false_eq_true, if_false]
    exact op_bind_error load
  rw [writeSrqr, op_bind_ok (getCfg_apply s), if_pos start]
  exact op_bind_error started

/-- Settles O32: without START the write is over; with it the first read fails. -/
theorem startIgnoredOrFails : Obligations.StartIgnoredOrFails := by
  intro s i d hm c a
  refine ⟨fun ignored => ?_, fun start idle hc hq even unbacked => ?_⟩
  · have write : writeSrqr i d s = .ok () s := by
      rw [writeSrqr, op_bind_ok (getCfg_apply s), ignored]
      rfl
    rw [exec_tWrSrqr hm, runOp_of_ok write]
  · have failed := nxmState_initBlock_withRequest (i := i) (c := c) (p := c.pending) s
    rw [State.eq_withRequest hc] at failed
    rw [exec_tWrSrqr hm, runOp_of_error (writeSrqr_of_unbacked start idle hq even unbacked), failed]
    rfl

/-! ### ARQR -/

/-- A request without SR runs the receive ring and then the transmit ring, as its bits say (rule R123). -/
theorem writeArqr_of_rings (sr : d.getLsbD s.cfg.layout.arqSr = false) :
    writeArqr i d s
      = ((if d.getLsbD s.cfg.layout.arqRrq then ringRx i else pure ()) >>= fun _ =>
          if d.getLsbD s.cfg.layout.arqTrq then ringTx i 0 else pure ()) s := by
  rw [writeArqr, op_bind_ok (getCfg_apply s), sr]
  cases d.getLsbD s.cfg.layout.arqRrq <;> rfl

/-- A request whose rings both serve nothing changes nothing. -/
theorem writeArqr_of_idle (sr : d.getLsbD s.cfg.layout.arqSr = false) (rx : ringRx i s = .ok () s)
    (tx : ringTx i 0 s = .ok () s) : writeArqr i d s = .ok () s := by
  have rxRun : (if d.getLsbD s.cfg.layout.arqRrq then ringRx i else pure ()) s = .ok () s := by
    split
    · exact rx
    · rfl
  rw [writeArqr_of_rings sr, op_bind_ok rxRun]
  split
  · exact tx
  · rfl

theorem ringRx_of_stopped (h : (s.ctl i).turbo.ringsStarted = false) : ringRx i s = .ok () s := by
  rw [ringRx, op_bind_ok (getCtl_apply i s), h]
  rfl

theorem ringTx_of_stopped (h : (s.ctl i).turbo.ringsStarted = false) (n : Nat) : ringTx i n s = .ok () s := by
  rw [ringTx, op_bind_ok (getCtl_apply i s), h]
  rfl

/-- A transmit ring whose next slot is not the device's serves nothing, and a request finds nothing consumed. -/
theorem ringTx_of_unowned_first (hq : s.Quiet)
    (ha : offsetAddr (slotAddr s.cfg.layout (s.ctl i).turbo.txRingBase (s.ctl i).turbo.txIdx) s.cfg.layout.slotOwner = a)
    (ready : wordReady s.cfg a = true) (unowned : slotOwned s.cfg.layout (s.wordAt a) = false) :
    ringTx i 0 s = .ok () s := by
  subst ha
  have pass : ringTxPass i 0 s = .ok (.ended 0) s := by
    rw [ringTxPass, op_bind_ok (getCtl_apply i s), op_bind_ok (getCfg_apply s), op_bind_ok (readWord_of_ready ready hq),
      unowned]
    rfl
  rw [ringTx, op_bind_ok (getCtl_apply i s)]
  split
  · rw [op_bind_ok (freeWalk_of_first pass)]
    rfl
  · rfl

/-- The packet's end hands it to the transport and suspends the walk; with no slot consumed before, nothing is latched
(rules R169, R171, R182). -/
theorem ringTxPacket_handsOff (attached : (s.unit i).attached = true) (c : Ctl) :
    ringTxPacket i a 0 (s.setCtl i c)
      = .error .suspended ((s.setCtl i ((c.setTxbuf []).setTxpend (some { addr := a, gen := c.tx.gen }))).addEvent
          (.write i c.tx.txbuf c.tx.gen)) := by
  have there : ((s.setCtl i c).cfg.unit i).attached = true := by rw [State.setCtl_cfg]; exact attached
  rw [ringTxPacket, op_bind_ok (getCtl_apply i _), op_bind_ok (getCfg_apply _), State.setCtl_ctl_same,
    op_bind_ok (changeCtl_apply i _ _), onCtl_setCtl, there, handOff]
  simp only [Bool.not_true, Bool.false_eq_true, if_false, bind_assoc]
  rw [op_bind_ok (getCtl_apply i _), State.setCtl_ctl_same, op_bind_ok (emit_apply _ _),
    op_bind_ok (changeCtl_apply i _ _), State.addEvent_setCtl, onCtl_setCtl, batchDone, if_neg (Nat.lt_irrefl 0)]
  rw [← State.addEvent_setCtl]
  rfl

/-- The last slot of a packet gathered, and the packet handed off. -/
theorem txGather_handsOff {α : Type} {f : Unit → Op α} {b : Addr} {len : Nat} (hq : s.Quiet)
    (backed : bytesBacked s.cfg b len = true) (attached : (s.unit i).attached = true) (c : Ctl) :
    (txGather i .ring len b >>= fun _ => ringTxPacket i a 0 >>= f) (s.setCtl i c)
      = .error .suspended ((s.setCtl i ((c.setTxbuf []).setTxpend (some { addr := a, gen := c.tx.gen }))).addEvent
          (.write i (keepUpTo s.cfg.txbufMax c.tx.txbuf (s.bytesAt b len)) c.tx.gen)) := by
  rw [op_bind_ok (txGather_setCtl backed hq)]
  exact op_bind_error (ringTxPacket_handsOff attached _)

/-- The pass over an owned slot that ends a packet: the bytes gathered so far, unless the packet starts here, and the
slot's own go to the transport (rules R153, R171). -/
theorem ringTxPass_handsOff {b : Addr} {lf : Word} (hq : s.Quiet)
    (ha : slotAddr s.cfg.layout (s.ctl i).turbo.txRingBase (s.ctl i).turbo.txIdx = a)
    (hlf : s.slotWord a s.cfg.layout.slotLenFlags = lf) (hb : s.slotBuffer a = b) (ready : slotReady s.cfg a = true)
    (owned : slotOwned s.cfg.layout (s.slotWord a s.cfg.layout.slotOwner) = true)
    (enp : lf.getLsbD s.cfg.layout.enp = true) (backed : bytesBacked s.cfg b (slotLen s.cfg.layout lf) = true)
    (attached : (s.unit i).attached = true) :
    ringTxPass i 0 s
      = .error .suspended ((s.setCtl i (((s.ctl i).setTxbuf []).setTxpend
          (some { addr := a, gen := (s.ctl i).tx.gen }))).addEvent (.write i
            (keepUpTo s.cfg.txbufMax (if lf.getLsbD s.cfg.layout.stp then [] else (s.ctl i).tx.txbuf)
              (s.bytesAt b (slotLen s.cfg.layout lf))) (s.ctl i).tx.gen)) := by
  obtain ⟨lo, hi, lenFlags, _, own⟩ := slotReady_iff.1 ready
  have readLength : readWord i .ring (offsetAddr a s.cfg.layout.slotLenFlags) s = .ok lf s :=
    hlf ▸ readWord_of_ready lenFlags hq
  rw [ringTxPass, op_bind_ok (getCtl_apply i s), op_bind_ok (getCfg_apply s), ha,
    op_bind_ok (readWord_of_ready own hq), if_neg (by rw [← State.slotWord, owned]; decide),
    op_bind_ok (readWord_of_ready lo hq), op_bind_ok (readWord_of_ready hi hq), op_bind_ok readLength]
  subst hb
  simp only [enp, if_true]
  split_ifs
  · rw [op_bind_ok (changeCtl_apply i _ s)]
    exact txGather_handsOff hq backed attached ((s.ctl i).setTxbuf [])
  · have gather := txGather_handsOff (f := fun _ => pure (Pass.again (0 + 1))) (a := a) hq backed attached (s.ctl i)
    rw [State.setCtl_self] at gather
    exact gather

/-- Settles O33: SR alone decides first; without it the rings run, and end at their first look or at the hand-off. -/
theorem asyncRequest : Obligations.AsyncRequest := by
  intro s i d hm c l a lf buffer kept
  rw [exec_tWrArqr hm]
  refine ⟨fun sr => ?_, fun sr stopped => ?_, fun sr hq empty ready unowned => ?_,
    fun sr rrq trq hq started idle ready owned enp backed attached => ?_⟩
  · have reset : writeArqr i d s = .ok () (resetState i s) := by
      rw [writeArqr, op_bind_ok (getCfg_apply s), if_pos sr]
      rfl
    exact runOp_of_ok reset
  · exact runOp_of_ok (writeArqr_of_idle sr (ringRx_of_stopped stopped) (ringTx_of_stopped stopped 0))
  · exact runOp_of_ok (writeArqr_of_idle sr (ringRx_of_empty empty) (ringTx_of_unowned_first hq rfl ready unowned))
  · have pass := ringTxPass_handsOff (i := i) hq rfl rfl rfl ready owned enp backed attached
    have sends : ((s.ctl i).turbo.ringsStarted && !(s.ctl i).tx.txpend.isSome) = true := by rw [started, idle]; rfl
    refine runOp_of_error (e := .suspended) ?_
    rw [writeArqr_of_rings sr, rrq, trq, if_neg Bool.false_ne_true, if_pos rfl, op_bind_ok (op_pure _ _), ringTx,
      op_bind_ok (getCtl_apply i s), if_pos sends]
    exact op_bind_error (freeWalk_of_first_error pass)

end Sys2Proof.Machine
end

section
/-! The end of a message (rules R124, R131, R132, R152 to R156, R182): the pass over its last descriptor gathers the bytes
and hands the message off, or completes it here, after which the list ends. -/

namespace Sys2Proof.Machine

variable {i : Inst} {c : Ctl} {s t v : State} {a : Addr} {d : Desc} {f : List Byte} {status : TxStatus}

/-! ### The pass over the last descriptor -/

/-- The descriptor at `a` is `d`, which ends a message, and its bytes can be read. -/
def State.EndsAt (a : Addr) (d : Desc) (s : State) : Prop :=
  (s.fetched a).descAt a = d ∧ descReady s.cfg a = true ∧ descValid d = true ∧ descChain d = false ∧ descEom d = true
    ∧ bytesBacked s.cfg (descStart d) (descLen d) = true

/-- The bytes of the message that it ends, those before it in `buf`. -/
def State.messageAt (a : Addr) (d : Desc) (buf : List Byte) (s : State) : List Byte :=
  keepUpTo s.cfg.txbufMax buf ((s.fetched a).bytesAt (descStart d) (descLen d))

/-- The pass gathers the descriptor's bytes and ends the message (rules R152, R153). -/
theorem txPass_ends (hq : s.Quiet) (ha : c.classic.xptr = a) (h : s.EndsAt a d) :
    txPass i () (s.setCtl i c)
      = (txEom i d >>= fun _ => pure (.again ()))
          ((s.fetched a).setCtl i (c.setTxbuf (s.messageAt a d c.tx.txbuf))) := by
  obtain ⟨hd, ready, valid, noChain, eom, backed⟩ := h
  rw [txPass, op_bind_ok (getCtl_apply i _), State.setCtl_ctl_same, ha, op_bind_ok (fetchDesc_setCtl ready hq), hd,
    valid, noChain, eom]
  simp only [Bool.not_true, Bool.false_eq_true, if_false, if_true]
  rw [op_bind_ok (txGather_setCtl (by rwa [State.fetched_cfg]) ((s.fetched_concurrent a).trans hq)), State.fetched_cfg]
  rfl

/-! ### The ways a message ends (rule R154) -/

theorem rqInsert_apply (i : Inst) (kind : ItemKind) (f : List Byte) (s : State) :
    rqInsert i kind f s = .ok () (onCtl i (rqInsertCtl s.cfg.readqCap kind f) s) := rfl

/-- The state after a setup packet is processed: Setup State stored and emitted, the sanity timer reloaded (rules R125 to
R128). -/
theorem endState_setupProcess (i : Inst) (f : List Byte) (s : State) :
    ∃ e, endState (setupProcess i f) s
      = onCtl i sanityReloadCtl ((onCtl i (setupCtl s.cfg.setupBits f) s).addEvent e) := ⟨_, rfl⟩

theorem endState_setupProcess_cfg (i : Inst) (f : List Byte) (s : State) :
    (endState (setupProcess i f) s).cfg = s.cfg := by
  obtain ⟨e, h⟩ := endState_setupProcess i f s
  rw [h, onCtl_cfg, State.addEvent_cfg, onCtl_cfg]

theorem setupProcess_apply (i : Inst) (f : List Byte) (s : State) :
    setupProcess i f s = .ok () (endState (setupProcess i f) s) := rfl

theorem txEom_of_setup (h : descSetup d = true) :
    txEom i d (s.setCtl i (c.setTxbuf f))
      = txComplete i .ok (onCtl i (rqInsertCtl s.cfg.readqCap .setupResponse f)
          (endState (setupProcess i f) (s.setCtl i (c.setTxbuf [])))) := by
  rw [txEom, op_bind_ok (getCtl_apply i _), op_bind_ok (getCfg_apply _), op_bind_ok (changeCtl_apply i _ _),
    State.setCtl_ctl_same, onCtl_setCtl, h]
  simp only [if_true]
  rw [op_bind_ok (setupProcess_apply i _ _), op_bind_ok (rqInsert_apply i _ _ _), endState_setupProcess_cfg,
    State.setCtl_cfg]
  rfl

theorem txEom_of_looped (h : descSetup d = false) (looped : loopsBack c.classic.csr = true) :
    txEom i d (s.setCtl i (c.setTxbuf f))
      = txComplete i .ok (if setupMatches c.setup f then
          onCtl i (rqInsertCtl s.cfg.readqCap .loopback f) (s.setCtl i (c.setTxbuf [])) else s.setCtl i (c.setTxbuf [])) := by
  rw [txEom, op_bind_ok (getCtl_apply i _), op_bind_ok (getCfg_apply _), op_bind_ok (changeCtl_apply i _ _),
    State.setCtl_ctl_same, onCtl_setCtl, h, Ctl.setTxbuf_classic, looped]
  simp only [Bool.false_eq_true, if_false, if_true]
  rw [Ctl.setTxbuf_setup, Ctl.setTxbuf_txbuf]
  split
  · rw [op_bind_ok (rqInsert_apply i _ _ _), State.setCtl_cfg]
    rfl
  · rfl

theorem txEom_of_unattached (h : descSetup d = false) (sent : loopsBack c.classic.csr = false)
    (alone : (s.unit i).attached = false) :
    txEom i d (s.setCtl i (c.setTxbuf f)) = txComplete i .fail (s.setCtl i (c.setTxbuf [])) := by
  have there : ((s.setCtl i (c.setTxbuf f)).cfg.unit i).attached = false := by rw [State.setCtl_cfg]; exact alone
  rw [txEom, op_bind_ok (getCtl_apply i _), op_bind_ok (getCfg_apply _), op_bind_ok (changeCtl_apply i _ _),
    State.setCtl_ctl_same, onCtl_setCtl, h, Ctl.setTxbuf_classic, sent, there]
  rfl

theorem txEom_of_attached (h : descSetup d = false) (sent : loopsBack c.classic.csr = false)
    (attached : (s.unit i).attached = true) :
    txEom i d (s.setCtl i (c.setTxbuf f))
      = .error .suspended ((s.setCtl i ((c.setTxbuf []).setTxpend
          (some { addr := c.classic.xptr, gen := c.tx.gen }))).addEvent (.write i f c.tx.gen)) := by
  have there : ((s.setCtl i (c.setTxbuf f)).cfg.unit i).attached = true := by rw [State.setCtl_cfg]; exact attached
  rw [txEom, op_bind_ok (getCtl_apply i _), op_bind_ok (getCfg_apply _), op_bind_ok (changeCtl_apply i _ _),
    State.setCtl_ctl_same, onCtl_setCtl, h, Ctl.setTxbuf_classic, sent, there, handOff]
  simp only [Bool.not_true, Bool.false_eq_true, if_false, bind_assoc]
  rw [op_bind_ok (getCtl_apply i _), State.setCtl_ctl_same, op_bind_ok (emit_apply _ _),
    op_bind_ok (changeCtl_apply i _ _), State.addEvent_setCtl, onCtl_setCtl, ← State.addEvent_setCtl]
  rfl

/-! ### A message completed where it ends -/

/-- The state `v` has a message of instance `i` at `a` to complete: in a classic mode, with the coordinator's invariant and
no driver write waiting, under configuration `cfg`, CSR `csr` and request `p`. -/
structure State.Completes (i : Inst) (a : Addr) (csr : Word) (p : Bool) (cfg : Config) (v : State) : Prop where
  coordinator : coordinatorOk v = true
  quiet : v.Quiet
  config : v.cfg = cfg
  classic : (v.ctl i).mode ≠ .turbo
  pointer : (v.ctl i).classic.xptr = a
  stored : (v.ctl i).classic.csr = csr
  request : (v.ctl i).pending = p

section

variable {csr : Word} {p : Bool} {cfg : Config}

/-- A change of other fields leaves that. -/
theorem State.Completes.onCtl (h : v.Completes i a csr p cfg) {g : Ctl → Ctl}
    (mode : (g (v.ctl i)).mode = (v.ctl i).mode) (classic : (g (v.ctl i)).classic = (v.ctl i).classic)
    (pending : (g (v.ctl i)).pending = (v.ctl i).pending) : (onCtl i g v).Completes i a csr p cfg where
  coordinator := onCtl_coordinatorOk pending h.coordinator
  quiet := (onCtl_concurrent i g v).trans h.quiet
  config := (onCtl_cfg i g v).trans h.config
  classic := by rw [onCtl_ctl_same, mode]; exact h.classic
  pointer := by rw [onCtl_ctl_same, classic]; exact h.pointer
  stored := by rw [onCtl_ctl_same, classic]; exact h.stored
  request := by rw [onCtl_ctl_same, pending]; exact h.request

theorem State.Completes.addEvent (h : v.Completes i a csr p cfg) (e : OutEvent) :
    (v.addEvent e).Completes i a csr p cfg where
  coordinator := h.coordinator
  quiet := h.quiet
  config := h.config
  classic := by rw [State.addEvent_ctl]; exact h.classic
  pointer := by rw [State.addEvent_ctl]; exact h.pointer
  stored := by rw [State.addEvent_ctl]; exact h.stored
  request := by rw [State.addEvent_ctl]; exact h.request

theorem State.Completes.rqInsert (h : v.Completes i a csr p cfg) (cap : Nat) (kind : ItemKind) (f : List Byte) :
    (Machine.onCtl i (rqInsertCtl cap kind f) v).Completes i a csr p cfg := h.onCtl rfl rfl rfl

theorem State.Completes.setupProcess (h : v.Completes i a csr p cfg) (f : List Byte) :
    (endState (setupProcess i f) v).Completes i a csr p cfg := by
  obtain ⟨e, processed⟩ := endState_setupProcess i f v
  rw [processed]
  have before := (h.onCtl (g := setupCtl v.cfg.setupBits f) rfl rfl rfl).addEvent e
  obtain ⟨timers, _, reload⟩ := sanityReloadCtl_eq cfg (((Machine.onCtl i (setupCtl v.cfg.setupBits f) v).addEvent e).ctl i)
  exact before.onCtl (by rw [reload]; rfl) (by rw [reload]; rfl) (by rw [reload]; rfl)

end

/-- The state `t` with the message of instance `i` at `a` completed and the list ended after it, from CSR `old` and request
`p` before the write (rule R155). -/
def State.messageCompleted (i : Inst) (a : Addr) (old : Word) (p : Bool) (sw1 sw2 : Word) (status : TxStatus)
    (t : State) : State :=
  let k := t.ctl i
  ((t.wrotePair a sw1 sw2).fetched (a + 12)).withRequest i
    { k with
      classic := { k.classic with csr := old ||| 0x0090, xptr := a + 12 }
      timers := if status = .ok then classicReload old k.setup.sanitySel k.timers else k.timers
      stats :=
        { k.stats with
          tx := k.stats.tx + (if status = .ok then 1 else 0)
          txfail := k.stats.txfail + (if status = .fail then 1 else 0) } }
    (requestAfter old (old ||| 0x0090) p)

@[simp] theorem State.drawnFor_ctl (status : TxStatus) (t : State) (i : Inst) : (t.drawnFor status).ctl i = t.ctl i := by
  cases status with
  | ok => rfl
  | fail => exact State.nextDraw_ctl t i

/-- The instance of it is what the walk leaves: the message counted and XI set, and then XL. -/
theorem State.messageCompleted_eq {old sw1 sw2 : Word} {p : Bool} (hm : (t.ctl i).mode ≠ .turbo)
    (pointer : (t.ctl i).classic.xptr = a) (stored : (t.ctl i).classic.csr = old &&& ~~~Csr.xlMask) :
    t.messageCompleted i a old p sw1 sw2 status
      = ((t.wrotePair a sw1 sw2).fetched (a + 12)).withRequest i
          ((txCompletedCtl status (t.ctl i)).setCsr (old ||| 0x0090)) (requestAfter old (old ||| 0x0090) p) := by
  have reload : classicReload (old &&& ~~~Csr.xlMask) = classicReload old := by
    funext sel timers
    rw [classicReload, classicReload, getLsbD_and_not_of_not_mem (by decide)]
  rw [State.messageCompleted, txCompletedCtl, countTx_of_classic hm, stored, reload, pointer]
  rfl

/-- XL cleared by the write, XI set by the completion, XL set again at the list's end. -/
theorem clear_xl_or (csr : Word) : (csr &&& ~~~Csr.xlMask) ||| Csr.xiMask ||| Csr.xlMask = csr ||| 0x0090 := by
  have split : (0x0090 : Word) = Csr.xlMask ||| Csr.xiMask := by decide
  rw [split, BitVec.or_assoc, BitVec.or_comm Csr.xiMask, ← BitVec.or_assoc, ← BitVec.or_assoc,
    ← csrAfter_set (csr &&& ~~~Csr.xlMask), csrAfter_set_clear]

/-- The completion moves the walk to the next descriptor, and the pass there ends it (rules R141, R155). -/
theorem State.Completes.ends {old : Word} {p : Bool} {cfg : Config}
    (h : v.Completes i a (old &&& ~~~Csr.xlMask) p cfg) (rl : old.getLsbD Csr.RL = true)
    (ready : descReady cfg a = true) (next : descReady cfg (a + 12) = true)
    (invalid : descValid (((v.drawnFor status).messageCompleted i a old p (txWords status v).1 (txWords status v).2
      status).descAt (a + 12)) = false) :
    ∃ u, txComplete i status v = .ok () u ∧ (u.ctl i).classic.xptr = a + 12
      ∧ txPass i () u = .ok (.ended ())
          ((v.drawnFor status).messageCompleted i a old p (txWords status v).1 (txWords status v).2 status) := by
  obtain ⟨coordinator, quiet, rfl, classic, pointer, stored, request⟩ := h
  obtain ⟨_, _, _, _, h1, h2⟩ := descReady_iff.1 ready
  have rlKept : (v.ctl i).classic.csr.getLsbD Csr.RL = true := by
    rw [stored, getLsbD_and_not_of_not_mem (by decide)]
    exact rl
  have complete := txComplete_withRequest (i := i) (c := v.ctl i) (p := (v.ctl i).pending) (t := v) (status := status)
    quiet rlKept (by rwa [pointer]) (by rwa [pointer])
  rw [State.eq_withRequest coordinator, pointer, stored, request] at complete
  obtain ⟨w, written⟩ : ∃ w, w = (v.drawnFor status).wrotePair a (txWords status v).1 (txWords status v).2 := ⟨_, rfl⟩
  have completed := State.messageCompleted_eq (i := i) (a := a) (t := v.drawnFor status) (status := status)
    (sw1 := (txWords status v).1) (sw2 := (txWords status v).2) (p := p) (by rwa [State.drawnFor_ctl])
    (by rwa [State.drawnFor_ctl]) (by rwa [State.drawnFor_ctl])
  rw [State.drawnFor_ctl, ← written] at completed
  rw [completed, State.descAt_withRequest] at invalid
  have moved : (txCompletedCtl status (v.ctl i)).classic.xptr = a + 12 := congrArg (· + descBytes) pointer
  have second := (txListWalk i).atInvalid_withRequest (c := txCompletedCtl status (v.ctl i))
    (p := requestAfter (old &&& ~~~Csr.xlMask) ((old &&& ~~~Csr.xlMask) ||| Csr.xiMask) p) (t := w)
    (by rw [State.Quiet, written, State.wrotePair_concurrent, State.drawnFor_concurrent]; exact quiet) moved
    (by rw [written, State.wrotePair_cfg, State.drawnFor_cfg]; exact next) invalid
  have bits : ∀ n ∈ [Csr.IE, Csr.XI, Csr.RI], (old &&& ~~~Csr.xlMask).getLsbD n = old.getLsbD n := fun n hn =>
    getLsbD_and_not_of_not_mem (by revert n; decide)
  rw [txCompletedCtl_csr, stored, requestAfter_or p (by decide), clear_xl_or,
    requestAfter_congr (old ||| 0x0090) p bits] at second
  refine ⟨_, complete, ?_, ?_⟩
  · rw [State.withRequest_ctl]
    exact moved
  · rw [completed, ← written]
    exact second

/-- A walk whose first message is completed where it ends, and whose list ends after it. -/
theorem txWalk_completes {old : Word} {p : Bool} {cfg : Config} (hq : s.Quiet) (ha : c.classic.xptr = a)
    (h : s.EndsAt a d) (hcap : ∀ n, s.cfg.chainCap = some n → 1 < n)
    (eom : txEom i d ((s.fetched a).setCtl i (c.setTxbuf (s.messageAt a d c.tx.txbuf))) = txComplete i status v)
    (hv : v.Completes i a (old &&& ~~~Csr.xlMask) p cfg) (rl : old.getLsbD Csr.RL = true)
    (ready : descReady cfg a = true) (next : descReady cfg (a + 12) = true)
    (invalid : descValid (((v.drawnFor status).messageCompleted i a old p (txWords status v).1 (txWords status v).2
      status).descAt (a + 12)) = false) :
    classicWalk i (txPass i) (s.setCtl i c)
      = .ok () ((v.drawnFor status).messageCompleted i a old p (txWords status v).1 (txWords status v).2 status) := by
  obtain ⟨u, complete, moved, last⟩ := hv.ends rl ready next invalid
  have first : txPass i () (s.setCtl i c) = .ok (.again ()) u := by
    rw [txPass_ends hq ha h, op_bind_ok (eom.trans complete)]
    rfl
  refine classicWalk_of_second first last ?_ (by rwa [State.setCtl_cfg])
  by_contra same
  have classic := classic_eq_of_sameWalk (Bool.not_eq_false _ ▸ same) i
  rw [State.setCtl_ctl_same] at classic
  have stays : a = a + 12 := ha.symm.trans ((congrArg Classic.xptr classic).trans moved)
  bv_omega

/-! ### The write (rule R111) -/

theorem loopsBack_withTxList (c : Ctl) (b : Addr) :
    loopsBack (c.withTxList b).classic.csr
      = (!c.classic.csr.getLsbD 0 && (!c.classic.csr.getLsbD 8 || c.classic.csr.getLsbD 9)) := by
  have bits : ∀ n ∈ [Csr.RE, Csr.IL, Csr.EL], (c.withTxList b).classic.csr.getLsbD n = c.classic.csr.getLsbD n :=
    fun n hn => getLsbD_and_not_of_not_mem (by revert n; decide)
  rw [loopsBack, bits Csr.RE (by simp), bits Csr.IL (by simp), bits Csr.EL (by simp)]

/-- A looped-back frame is accepted by promiscuous mode, the filter list, or as a group address (rule R132). -/
theorem setupMatches_iff {u : Setup} {f : List Byte} :
    setupMatches u f = true ↔ u.promiscuous = true ∨ macOf f ∈ u.filters
      ∨ (f.getD 0 0).getLsbD 0 = true ∧ u.allMulticast = true := by
  simp only [setupMatches, Bool.or_eq_true, Bool.and_eq_true, decide_eq_true_eq, or_assoc]
  rfl

theorem State.fetched_coordinatorOk (h : coordinatorOk s = true) (a : Addr) : coordinatorOk (s.fetched a) = true := by
  have only : s.fetched a = { s with mem := (s.fetched a).mem, trace := (s.fetched a).trace } :=
    State.OnlyMemory.fetched s a
  rw [only]
  exact h

/-- A message that ends in the first descriptor of a newly written list is there to complete, its bytes taken out. -/
theorem completes_withTxList (hm : (s.ctl i).mode ≠ .turbo) (hc : coordinatorOk s = true) (hq : s.Quiet) (b : Addr) :
    ((s.fetched b).setCtl i (((s.ctl i).withTxList b).setTxbuf [])).Completes i b
      ((s.ctl i).classic.csr &&& ~~~Csr.xlMask) (s.ctl i).pending s.cfg where
  coordinator := onCtl_coordinatorOk (f := fun _ => ((s.ctl i).withTxList b).setTxbuf [])
    (by rw [State.fetched_ctl]; rfl) (State.fetched_coordinatorOk hc b)
  quiet := (State.setCtl_concurrent _ i _).trans ((s.fetched_concurrent b).trans hq)
  config := (State.setCtl_cfg _ i _).trans (s.fetched_cfg b)
  classic := by rw [State.setCtl_ctl_same]; exact hm
  pointer := by rw [State.setCtl_ctl_same]; rfl
  stored := by rw [State.setCtl_ctl_same]; rfl
  request := by rw [State.setCtl_ctl_same]; rfl

/-- Settles O22: the hand-off suspends the walk in its first pass; the other three complete the message there, each from
its own state, and the second pass ends the list. -/
theorem messageEnd : Obligations.MessageEnd := by
  intro s i m d hm hmode hr hc hq cap0 idle c b s0 w f s1 looped accepted new completed ends ready valid noChain eom backed
  have classic : c.mode ≠ .turbo := hmode ▸ hm
  have endsAt : s.EndsAt b w := ⟨rfl, ready, valid, noChain, eom, backed⟩
  have write : writeXbdlHi i d s = classicWalk i (txPass i) (s.setCtl i (c.withTxList b)) :=
    writeXbdlHi_starts classic hr idle
  have loops : loopsBack (c.withTxList b).classic.csr = looped := loopsBack_withTxList c b
  have unit : s0.unit i = s.unit i := by rw [State.unit, State.fetched_cfg]
  have cfg : s0.cfg = s.cfg := State.fetched_cfg s b
  rw [exec_writeInstr_xbdlHi hm hmode]
  refine ⟨fun noSetup sent attached => ?_, fun rl next cap1 => ?_⟩
  · have handed := txEom_of_attached (i := i) (c := c.withTxList b) (f := f) noSetup (loops.trans sent) (unit ▸ attached)
    have pass := (txPass_ends (i := i) (c := c.withTxList b) hq rfl endsAt).trans (op_bind_error handed)
    exact runOp_of_error (write.trans (classicWalk_of_first_error (by rwa [State.setCtl_cfg]) pass))
  have hcap : ∀ n, s.cfg.chainCap = some n → 1 < n := by
    intro n hn
    rw [hn] at cap0 cap1
    simp only [ne_eq, Option.some.injEq] at cap0 cap1
    omega
  have start : s1.Completes i b (c.classic.csr &&& ~~~Csr.xlMask) c.pending s.cfg := completes_withTxList classic hc hq b
  have run : ∀ {status v}, txEom i w (s0.setCtl i ((c.withTxList b).setTxbuf f)) = txComplete i status v →
      v.Completes i b (c.classic.csr &&& ~~~Csr.xlMask) c.pending s.cfg →
      ends (completed (txWords status v).1 (txWords status v).2 status (v.drawnFor status)) →
      runOp (writeXbdlHi i d) s
        = .next (completed (txWords status v).1 (txWords status v).2 status (v.drawnFor status)) :=
    fun eom hv ended => runOp_of_ok (write.trans (txWalk_completes hq rfl endsAt hcap eom hv rl ready next ended))
  have runOk : ∀ {v}, txEom i w (s0.setCtl i ((c.withTxList b).setTxbuf f)) = txComplete i .ok v →
      v.Completes i b (c.classic.csr &&& ~~~Csr.xlMask) c.pending s.cfg →
      ends (completed s.cfg.txOkSw1 s.cfg.txOkSw2 .ok v) →
      runOp (writeXbdlHi i d) s = .next (completed s.cfg.txOkSw1 s.cfg.txOkSw2 .ok v) := fun eom hv ended => by
    have done := run eom hv
    rw [txWords, hv.config] at done
    exact done ended
  refine ⟨fun setup ended => ?_, fun noSetup back ended => ?_, fun noSetup sent alone => ?_⟩
  · exact runOk (cfg ▸ txEom_of_setup setup) ((start.setupProcess f).rqInsert s.cfg.readqCap .setupResponse f) ended
  · have eom := txEom_of_looped (i := i) (c := c.withTxList b) (s := s0) (f := f) noSetup (loops.trans back)
    rw [cfg] at eom
    refine runOk (eom.trans (congrArg _ (if_congr setupMatches_iff rfl rfl))) ?_ ended
    split
    · exact start.rqInsert s.cfg.readqCap .loopback f
    · exact start
  · obtain ⟨nonzero, small⟩ := timingWord_range (Config.freeTiming s1.draws)
    have done := run (v := s1) (txEom_of_unattached noSetup (loops.trans sent) (unit ▸ alone)) start
    rw [txWords, start.config] at done
    exact ⟨_, nonzero, small, done⟩

end Sys2Proof.Machine
end

section
/-! Processing a setup packet (rules R91, R92, R125 to R128, R209): the addresses taken from it, the Setup State it leaves, and
the filter emitted before the sanity timer is reloaded. -/

namespace Sys2Proof.Machine

variable {c : Ctl}

/-! ### The addresses taken -/

/-- The second bank is looked at only in a packet longer than `SETUP_BANK2` (rule R91). -/
theorem filter_setupTakes (n : Nat) :
    (List.range 14).filter (setupTakes n)
      = (List.range (if n ≤ 112 then 7 else 14)).filter fun j => decide (setupOff j 5 < n) := by
  by_cases short : n ≤ 112
  · have firstBank : (List.range 14).filter (fun j => decide (j < 7)) = List.range 7 := by decide
    rw [if_pos short, ← firstBank, List.filter_filter]
    refine List.filter_congr fun j _ => ?_
    rw [setupTakes, setupBank2, decide_eq_false (Nat.not_lt.2 short), Bool.or_false]
  · rw [if_neg short]
    refine List.filter_congr fun j _ => ?_
    rw [setupTakes, setupBank2, decide_eq_true (Nat.not_le.1 short), Bool.or_true, Bool.and_true]

theorem setupFilters_eq_filterMap (f : List Byte) :
    setupFilters f = (List.range (if f.length ≤ 112 then 7 else 14)).filterMap fun j =>
      if setupOff j 5 < f.length then some (setupAddress f j) else none := by
  rw [setupFilters, filter_setupTakes, ← List.filterMap_eq_map, List.filterMap_filter]
  simp only [decide_eq_true_eq, Function.comp_apply]

/-! ### The Setup State -/

/-- A field read into a word of its own width needs no cut. -/
theorem ofNat_fieldOf (w : Word) (lo bits : Nat) :
    BitVec.ofNat bits (fieldOf w lo bits) = BitVec.ofNat bits (w.toNat / 2 ^ lo) :=
  BitVec.eq_of_toNat_eq (by simp [fieldOf])

/-- Only a long packet changes the multicast flag, the LEDs and the sanity interval, and only its flag sets promiscuous mode
(rules R92, R126, R127). -/
theorem setupAfter_eq (b : SetupFlagBits) (old : Setup) (f : List Byte) :
    let long := decide (128 < f.length)
    setupAfter b old f
      = { filters := setupFilters f
          allMulticast := if long then (setupFlags f).getLsbD b.mc else old.allMulticast
          promiscuous := long && (setupFlags f).getLsbD b.pm
          led := if long then BitVec.ofNat 2 ((setupFlags f).toNat / 2 ^ b.led) else old.led
          sanitySel := if long then BitVec.ofNat 3 ((setupFlags f).toNat / 2 ^ b.san) else old.sanitySel } := by
  intro long
  by_cases h : 128 < f.length
  · have isLong : long = true := decide_eq_true h
    rw [setupAfter, setupLong, if_pos h, ofNat_fieldOf, ofNat_fieldOf, isLong]
    rfl
  · have isShort : long = false := decide_eq_false h
    rw [setupAfter, setupLong, if_neg h, isShort]
    rfl

/-! ### The reload and the output -/

/-- In a classic mode a reload touches the timers alone (rule R209). -/
theorem sanityReloadCtl_of_classic (hm : c.mode ≠ .turbo) :
    sanityReloadCtl c = c.setTimers (classicReload c.classic.csr c.setup.sanitySel c.timers) := by
  rw [sanityReloadCtl, if_neg hm, classicReload]
  cases c.classic.csr.getLsbD Csr.SE <;> rfl

/-- The filter emitted is the one just stored. -/
theorem setupProcess_eq (i : Inst) (f : List Byte) (s : State) :
    let u := setupAfter s.cfg.setupBits (s.ctl i).setup f
    setupProcess i f s
      = .ok () ((s.setCtl i (sanityReloadCtl (setupCtl s.cfg.setupBits f (s.ctl i)))).addEvent
          (.filter i u.filters u.allMulticast u.promiscuous)) := by
  intro u
  have stored : (setupCtl s.cfg.setupBits f (s.ctl i)).setup = u := rfl
  rw [setupProcess, op_bind_ok (getCfg_apply s), op_bind_ok (changeCtl_apply i _ s), op_bind_ok (getCtl_apply i _),
    op_bind_ok (emit_apply _ _), sanityReload, changeCtl_apply, onCtl_ctl_same, stored, onCtl, State.addEvent_ctl,
    onCtl_ctl_same, ← State.addEvent_setCtl, onCtl, State.setCtl_setCtl]

/-- Settles O43: the addresses by the two banks, the other settings by the packet's length, and the timer reloaded from the
interval just stored. -/
theorem setupPacket : Obligations.SetupPacket := by
  intro s i f classic c n bits word off filters long setup
  have taken : setupFilters f = filters := setupFilters_eq_filterMap f
  have after : setupAfter bits c.setup f = setup := by
    rw [setupAfter_eq, taken]
    rfl
  have mode : (setupCtl bits f c).mode ≠ .turbo := classic
  have reloaded := sanityReloadCtl_of_classic mode
  rw [setupCtl, after] at reloaded
  rw [setupProcess_eq, setupCtl, after, reloaded]
  rfl

end Sys2Proof.Machine
end

section
/-! A frame that waits in the Read Queue (rules R147, R170, R174, R179): it is queued, and the walk of the instance's mode
ends at once. -/

namespace Sys2Proof.Machine

variable {i : Inst} {s : State} {a : Addr}

/-- A received frame enters the queue, and then the walk of the instance's mode runs (rule R179). -/
theorem receive_eq (i : Inst) (f : List Byte) (s : State) :
    receive i f s = (if (s.ctl i).mode = .turbo then ringRx i else rxDispatch i)
      (s.setCtl i (rqInsertCtl s.cfg.readqCap .normal f (s.ctl i))) := by
  rw [receive, op_bind_ok (rqInsert_apply i .normal f s), op_bind_ok (getCtl_apply i _), onCtl_ctl_same]
  rfl

/-- A receive ring whose next slot is not the device's serves nothing, whatever waits in the queue (rule R170). -/
theorem ringRx_of_unowned_first (hq : s.Quiet)
    (ha : offsetAddr (slotAddr s.cfg.layout (s.ctl i).turbo.rxRingBase (s.ctl i).turbo.rxIdx) s.cfg.layout.slotOwner = a)
    (ready : wordReady s.cfg a = true) (unowned : slotOwned s.cfg.layout (s.wordAt a) = false) :
    ringRx i s = .ok () s := by
  subst ha
  cases queue : (s.ctl i).queue.readq with
  | nil => exact ringRx_of_empty queue
  | cons q rest =>
    have pass : ringRxPass i 0 s = .ok (.ended 0) s := by
      rw [ringRxPass, op_bind_ok (getCtl_apply i s), op_bind_ok (getCfg_apply s), queue]
      simp only
      rw [op_bind_ok (readWord_of_ready ready hq), unowned]
      rfl
    rw [ringRx, op_bind_ok (getCtl_apply i s)]
    split
    · rw [op_bind_ok (freeWalk_of_first pass)]
      rfl
    · rfl

theorem State.wordAt_setCtl (s : State) (i : Inst) (c : Ctl) (a : Addr) : (s.setCtl i c).wordAt a = s.wordAt a :=
  State.wordAt_congr (State.setCtl_mem s i c) (State.setCtl_cfg s i c) a

/-- Settles O26: the queue has no part in RL or the ring's position, so the walk that follows the insertion ends at once. -/
theorem frameQueued : Obligations.FrameQueued := by
  intro s i f attached subscribed c slot
  rw [exec_rxf attached subscribed]
  refine ⟨fun classic rl => runOp_of_ok ?_, fun turbo quiet ready unowned => runOp_of_ok ?_⟩
  · rw [receive_eq, if_neg classic]
    exact rxDispatch_of_rl (by rw [State.setCtl_ctl_same]; exact rl)
  · rw [receive_eq, if_pos turbo]
    refine ringRx_of_unowned_first (a := offsetAddr slot s.cfg.layout.slotOwner)
      ((State.setCtl_concurrent s i _).trans quiet) ?_ ?_ ?_
    · rw [State.setCtl_ctl_same, State.setCtl_cfg]
      rfl
    · rwa [State.setCtl_cfg]
    · rw [State.setCtl_cfg, State.wordAt_setCtl]
      exact unowned

end Sys2Proof.Machine
end

section
/-! Taking a memory error (rules R145, R188, R189, R197, R198): what NXM and NXM_T do to an instance and its request. -/

namespace Sys2Proof.Machine

variable {i : Inst} {c : Ctl} {p : Bool}

theorem nxmState_of_classic {ctx : NxmCtx} (noInit : ctx ≠ .initBlock) (noRing : ctx ≠ .ring) (s : State) :
    nxmState i ctx s = nxmClassic i s := by
  cases ctx with
  | initBlock => exact absurd rfl noInit
  | ring => exact absurd rfl noRing
  | _ => rfl

/-- NXM: the buffer emptied, and NI, XI, XL and RL set over one CSR change (rule R188). -/
theorem nxmClassic_withRequest (t : State) :
    nxmClassic i (t.withRequest i c p)
      = t.withRequest i ((c.setTxbuf []).setCsr (c.classic.csr ||| Csr.nxmMask))
          (requestAfter c.classic.csr (c.classic.csr ||| Csr.nxmMask) p) := by
  rw [nxmClassic, onCtl_withRequest rfl, csrChange_withRequest, csrAfter_set]
  rfl

/-- NXM_T: the response, the rings and the subscription stopped, and the request latched (rule R189). -/
theorem nxmTurbo_withRequest (t : State) :
    nxmTurbo i (t.withRequest i c p) = t.withRequest i ((nxmTurboCtl c).setTlatch true) c.turbo.icrEn := by
  rw [nxmTurbo, onCtl_withRequest rfl, latchTurbo_withRequest]
  rfl

/-- Settles O41: an error of a classic walk is NXM and one of a ring walk NXM_T, taken in the coordinator's form of the
state. -/
theorem memoryErrors : Obligations.MemoryErrors := by
  intro s i ctx hc c new
  have coordinator : s.withRequest i c c.pending = s := State.eq_withRequest hc i
  refine ⟨fun noInit noRing => ?_, ?_⟩
  · have taken := nxmClassic_withRequest (i := i) (c := c) (p := c.pending) s
    rw [coordinator] at taken
    rw [raise_apply, nxmState_of_classic noInit noRing, taken]
    rfl
  · have taken := nxmTurbo_withRequest (i := i) (c := c) (p := c.pending) s
    rw [coordinator] at taken
    exact congrArg _ taken

end Sys2Proof.Machine
end

section
/-! Turbo mode, entered and left (rules R161 to R163): the handshake write of RBDL_HI enters it, and only a full reset leaves
it. -/

namespace Sys2Proof.Machine

variable {op : Instr} {s t : State} {u : Inst}

/-! ### Entry -/

/-- `TurboEnter()` where the coordinator's invariant holds: the request is withdrawn with it. -/
theorem turboEnter_apply (hc : coordinatorOk s = true) :
    turboEnter u s = .ok () (s.withRequest u (turboEnterCtl (s.ctl u)) false) := by
  have entered : clrInt u (onCtl u turboEnterCtl (s.withRequest u (s.ctl u) (s.ctl u).pending))
      = s.withRequest u (turboEnterCtl (s.ctl u)) false := by
    rw [onCtl_withRequest rfl, clrInt_withRequest]
  rw [State.eq_withRequest hc] at entered
  rw [turboEnter, change_apply, entered]

theorem writeRbdlHi_of_handshake {d : Word} (h : handshakes s.cfg u (s.ctl u) d = true) :
    writeRbdlHi u d s = turboEnter u s := by
  rw [writeRbdlHi, op_bind_ok (getCtl_apply u s), op_bind_ok (getCfg_apply s), if_pos h]

/-- Settles O18: the write completes the handshake, so it is `TurboEnter()` and no list write. -/
theorem turboEntry : Obligations.TurboEntry := by
  intro s i turbo compatible hc latched c
  have handshake : handshakes s.cfg i (s.ctl i) s.cfg.handshakeHi = true :=
    handshakes_iff.2 ⟨turbo, compatible, latched, rfl⟩
  have enters : writeRbdlHi i s.cfg.handshakeHi s = .ok () (s.withRequest i (turboEnterCtl (s.ctl i)) false) :=
    (writeRbdlHi_of_handshake handshake).trans (turboEnter_apply hc)
  calc exec (.cWrRbdlHi i s.cfg.handshakeHi) s
    _ = runOp (writeRbdlHi i s.cfg.handshakeHi) s := exec_writeInstr_rbdlHi (by decide) compatible
    _ = .next (s.withRequest i (turboEnterCtl (s.ctl i)) false) := runOp_of_ok enters

/-! ### The operations that reset an instance in turbo mode -/

/-- The last tick of an armed sanity timer (rule R207). -/
def LastTick (c : Ctl) : Prop := c.timers.sanArmed = true ∧ c.timers.sanCount ≤ 1

/-- The operations that are a full reset of an instance in turbo mode: an ARQR write with SR, the last tick of its sanity
timer, a bus reset, a power-on (rules R123, R163, R210, R219, R220). -/
inductive ResetsTurbo (s : State) (u : Inst) : Instr → Prop
  | request (d : Word) (sr : d.getLsbD s.cfg.layout.arqSr = true) : ResetsTurbo s u (.tWrArqr u d)
  | expiry (last : LastTick (s.ctl u)) : ResetsTurbo s u (.tick u)
  | busreset : ResetsTurbo s u .busreset
  | poweron : ResetsTurbo s u .poweron

/-! ### The sanity half of a tick -/

theorem sanityTick_of_not_last (h : ¬LastTick (s.ctl u)) :
    sanityTick u s = .ok () (if (s.ctl u).timers.sanArmed then onCtl u sanityCountCtl s else s) := by
  rw [sanityTick, op_bind_ok (getCtl_apply u s)]
  cases armed : (s.ctl u).timers.sanArmed with
  | false => rfl
  | true =>
    have goesOn : (s.ctl u).timers.sanCount - 1 ≠ 0 := fun e => h ⟨armed, by omega⟩
    rw [if_pos rfl, if_pos rfl, op_bind_ok (changeCtl_apply u _ s), if_neg goesOn]
    rfl

theorem sanityTick_of_last (hm : (s.ctl u).mode = .turbo) (h : LastTick (s.ctl u)) :
    sanityTick u s = .ok () (resetState u (onCtl u sanityCountCtl s)) := by
  obtain ⟨armed, last⟩ := h
  have still : ((onCtl u sanityCountCtl s).ctl u).mode = .turbo := by rw [onCtl_ctl_same]; exact hm
  rw [sanityTick, op_bind_ok (getCtl_apply u s), if_pos armed, op_bind_ok (changeCtl_apply u _ s), if_pos (by omega),
    sanityExpire, op_bind_ok (getCtl_apply u _), if_pos still]
  rfl

/-- After the sanity half, a tick leaves the mode. -/
theorem tick_mode {m : Mode} (h : sanityTick u s = .ok () t) (hm : (t.ctl u).mode = m) :
    ((endState (tick u) s).ctl u).mode = m := by
  have kept : At (.tick u) t u (InMode m) (endState (sysidTick u) t) :=
    steady_inMode.sysidTick.endState ⟨Moved.refl _ t, hm⟩
  rw [tick, endState, op_bind_ok h]
  exact kept.holds

/-! ### Every other operation keeps turbo mode -/

theorem keeps_receive_turbo {f : List Byte} : Keeps (At op s u (InMode .turbo)) (receive u f) :=
  steady_inMode.rqInsert.bind fun _ => Keeps.ask.bind fun _ =>
    Keeps.ite (steady_inMode.ringRx fits_inMode) steady_inMode.rxDispatch

/-- A completion in turbo mode takes the message back and goes on in the ring. -/
theorem keeps_completed_turbo {status : TxStatus} : Keeps (At op s u (InMode .turbo)) (completed u status) := by
  refine Piece.bind (Q := fun _ => At op s u (Idle .turbo))
    (Piece.changeCtl fun _ h => h.move .takeBack ⟨h.holds, rfl⟩) fun _ =>
      Piece.getCtl fun c => Piece.branch (fun _ => ?_) fun hc => ?_
  · exact turboTxComplete_piece.weaken (fun _ h => h.1) (fun _ _ h => h) fun _ h => h
  · rintro t ⟨h, rfl⟩
    exact absurd h.holds.1 hc

theorem ackState_keeps_turbo (hu : ackTarget s = some u) (h : At op s u (InMode .turbo) s) :
    At op s u (InMode .turbo) (ackState s) := by
  rw [ackState, hu]
  exact steady_inMode.setYield _ _ (steady_inMode.change _ _ (steady_inMode.clrInt _ h) (change_ack _))

theorem selfTestDone_mode (u : Inst) (s : State) :
    ((endState (selfTestDone u) s).ctl u).mode = (s.ctl u).mode := by
  rw [selfTestDone, endState, op_bind_ok (getCfg_apply s), changeCtl_apply]
  simp only [onCtl_ctl_same, Ctl.setVar_mode]

theorem writeArqr_keeps_turbo {d : Word} (sr : d.getLsbD s.cfg.layout.arqSr = false) (h : At op s u (InMode .turbo) s) :
    At op s u (InMode .turbo) (endState (writeArqr u d) s) := by
  have walks : Keeps (At op s u (InMode .turbo)) ((if d.getLsbD s.cfg.layout.arqRrq then ringRx u else pure ()) >>= fun _ =>
      if d.getLsbD s.cfg.layout.arqTrq then ringTx u 0 else pure ()) :=
    (Keeps.ite (steady_inMode.ringRx fits_inMode) Keeps.pure).bind fun _ => Keeps.ite keeps_ringTx Keeps.pure
  rw [endState, writeArqr_of_rings sr]
  exact walks.endState h

theorem tick_keeps_turbo (h : ¬LastTick (s.ctl u)) (hm : (s.ctl u).mode = .turbo) :
    ((endState (tick u) s).ctl u).mode = .turbo := by
  refine tick_mode (sanityTick_of_not_last h) ?_
  split
  · rw [onCtl_ctl_same]; exact hm
  · exact hm

/-- An operation that needs an instance in turbo mode, and is no full reset of it, leaves it there. -/
theorem exec_keeps_turbo (h : exec op s = .next t) (hu : u ∈ needs (ackTarget s) op) (hm : (s.ctl u).mode = .turbo)
    (no : ¬ResetsTurbo s u op) : (t.ctl u).mode = .turbo := by
  have start : At op s u (InMode .turbo) s := ⟨Moved.refl op s, hm⟩
  have reads := (steady_inMode (op := op) (s := s) (i := u) (m := .turbo)).toKeptOutside
  have one : ∀ {j : Inst}, needs (ackTarget s) op = [j] → j = u := fun e => (List.mem_singleton.1 (e ▸ hu)).symm
  have run : ∀ {m : Op Unit}, Keeps (At op s u (InMode .turbo)) m → runOp m s = .next t → (t.ctl u).mode = .turbo :=
    fun hk h => (hk.runOp h start).holds
  have access : ∀ {m : Op Unit}, Keeps (At op s u (InMode .turbo)) m → inMode .turbo u m s = .next t →
      (t.ctl u).mode = .turbo := fun hk h => (hk.inMode h start).holds
  have classic : ∀ {k : Mode} {m : Op Unit}, k ≠ .turbo → inMode k u m s = .next t → (t.ctl u).mode = .turbo :=
    fun hk h => absurd ((inMode_next.1 h).1.symm.trans hm) hk
  cases op with
  | lRdSa0 j | lRdSa1 j | lRdSa2 j | lRdSa3 j | lRdSa4 j | lRdSa5 j | lRdVar j | lRdCsr j
  | cRdSa0 j | cRdSa1 j | cRdSa2 j | cRdSa3 j | cRdSa4 j | cRdSa5 j | cRdVar j | cRdCsr j
  | lWrSa0 j d | lWrSa1 j d | lWrRbdlLo j d | lWrRbdlHi j d | lWrXbdlLo j d | lWrXbdlHi j d | lWrVar j d | lWrCsr j d
  | cWrSa0 j d | cWrSa1 j d | cWrRbdlLo j d | cWrRbdlHi j d | cWrXbdlLo j d | cWrXbdlHi j d | cWrVar j d | cWrCsr j d =>
    obtain rfl := one rfl
    exact classic (by decide) h
  | tRdSa0 j | tRdSa1 j | tRdSa2 j | tRdSa3 j | tRdSa4 j | tRdSa5 j =>
    obtain rfl := one rfl
    exact access reads.readStation h
  | tRdSrr j => obtain rfl := one rfl; exact access reads.readSrr h
  | tRdRsv j => obtain rfl := one rfl; exact access reads.readReserved h
  | tWrIgn0 j d | tWrIgn1 j d | tWrIgn5 j d => obtain rfl := one rfl; exact access Keeps.writeIgnored h
  | tWrIbaLo j d => obtain rfl := one rfl; exact access (steady_inMode.changeCtl fun _ _ => .ibaLo d) h
  | tWrIbaHi j d => obtain rfl := one rfl; exact access (steady_inMode.changeCtl fun _ _ => .iba _) h
  | tWrIcr j d => obtain rfl := one rfl; exact access keeps_writeIcr h
  | tWrSrqr j d => obtain rfl := one rfl; exact access keeps_writeSrqr h
  | tWrArqr j d =>
    obtain rfl := one rfl
    have sr : d.getLsbD s.cfg.layout.arqSr = false := Bool.eq_false_iff.2 fun sr => no (.request d sr)
    exact (inMode_next.1 h).2 ▸ (writeArqr_keeps_turbo sr start).holds
  | ack => exact runOp_next.1 h ▸ (ackState_keeps_turbo (Option.mem_toList.1 hu) start).holds
  | tick j =>
    obtain rfl := one rfl
    exact runOp_next.1 h ▸ tick_keeps_turbo (fun last => no (.expiry last)) hm
  | rxf j frame =>
    obtain rfl := one rfl
    simp only [exec, execRxf] at h
    split at h
    · exact run keeps_receive_turbo h
    · cases h
  | txdone j status tag =>
    obtain rfl := one rfl
    exact run (Keeps.ask.bind fun _ => Keeps.ite keeps_completed_turbo Keeps.pure) h
  | stdone j =>
    obtain rfl := one rfl
    simp only [exec, execStdone] at h
    split at h
    · exact runOp_next.1 h ▸ (selfTestDone_mode j s).trans hm
    · cases h
  | busreset => exact absurd .busreset no
  | poweron => exact absurd .poweron no
  | reserved37 | reserved38to3F code => cases hu

/-! ### After the reset -/

theorem resetState_cfg (i : Inst) (s : State) : (resetState i s).cfg = s.cfg := by
  rw [resetState, State.addEvent_cfg, clrInt_cfg, onCtl_cfg]

theorem resetState_ctl_other (i : Inst) (s : State) : (resetState i s).ctl i.other = s.ctl i.other := by
  rw [resetState, State.addEvent_ctl, clrInt_ctl_other, onCtl_ctl_other]

theorem resetState_mode (h : (s.cfg.unit u).type ≠ .legacy) : ((resetState u s).ctl u).mode = .compatible := by
  rw [resetState, State.addEvent_ctl, clrInt_mode_ctl, onCtl_ctl_same]
  exact if_neg h

/-- A full reset of both instances, each after a change of its own, leaves each in its reset mode. -/
theorem resetBoth_mode (f : Ctl → Ctl) (h : (s.cfg.unit u).type ≠ .legacy) :
    ((resetState .i1 (onCtl .i1 f (resetState .i0 (onCtl .i0 f s)))).ctl u).mode = .compatible := by
  cases u with
  | i0 =>
    have first := resetState_mode (u := .i0) (s := onCtl .i0 f s) (by rwa [onCtl_cfg])
    have second : (resetState .i1 (onCtl .i1 f (resetState .i0 (onCtl .i0 f s)))).ctl .i0
        = (resetState .i0 (onCtl .i0 f s)).ctl .i0 :=
      (resetState_ctl_other .i1 _).trans (onCtl_ctl_other .i1 f _)
    rwa [second]
  | i1 => exact resetState_mode (by rwa [onCtl_cfg, resetState_cfg, onCtl_cfg])

/-- A full reset of an instance in turbo mode leaves it in compatible mode. -/
theorem ResetsTurbo.compatible (r : ResetsTurbo s u op) (h : exec op s = .next t) (hm : (s.ctl u).mode = .turbo)
    (type : (s.cfg.unit u).type ≠ .legacy) : (t.ctl u).mode = .compatible := by
  cases r with
  | request d sr =>
    have reset : writeArqr u d s = .ok () (resetState u s) := by
      rw [writeArqr, op_bind_ok (getCfg_apply s), if_pos sr]
      rfl
    rw [exec_tWrArqr hm, runOp_of_ok reset] at h
    cases h
    exact resetState_mode type
  | expiry last =>
    exact runOp_next.1 h ▸ tick_mode (sanityTick_of_last hm last) (resetState_mode (by rwa [onCtl_cfg]))
  | busreset =>
    have both := resetBoth_mode id type
    simp only [onCtl, id, State.setCtl_self] at both
    exact runOp_next.1 h ▸ both
  | poweron =>
    have both := resetBoth_mode powerOnCtl type
    rw [← runOp_next.1 h]
    exact (congrArg Ctl.mode (State.setCoord_ctl _ 0 false u)).trans both

theorem State.ModesOk.ctl (h : s.ModesOk) (u : Inst) : ModeOk (s.cfg.unit u) (s.ctl u) := by
  cases u
  · exact h.1
  · exact h.2

/-- Settles O59: an operation that does not need the instance leaves it, one that is no full reset keeps turbo mode, and
TA follows the mode. -/
theorem turboLeftOnlyByReset : Obligations.TurboLeftOnlyByReset := by
  intro op u s t legal h turbo left
  have needed : u ∈ needs (ackTarget s) op := by
    by_contra hu
    exact left ((congrArg Ctl.mode (otherInstanceKept op u s t hu h)).trans turbo)
  have resets : ResetsTurbo s u op := by
    by_contra no
    exact left (exec_keeps_turbo h needed turbo no)
  obtain ⟨legacy, -⟩ := legal.ctl u
  have type : (s.cfg.unit u).type ≠ .legacy := fun e => by simp [legacy e] at turbo
  obtain ⟨-, -, -, ta⟩ := (exec_moved h).keeps (u := u) (fun _ _ => Move.modeOk) (legal.ctl u)
  refine ⟨?_, resets.compatible h turbo type, Bool.eq_false_iff.2 fun e => left (ta.1 e)⟩
  cases resets with
  | request d sr => exact .inr (.inr (.inl ⟨d, rfl, sr⟩))
  | expiry last => exact .inr (.inr (.inr ⟨rfl, last⟩))
  | busreset => exact .inl rfl
  | poweron => exact .inr (.inl rfl)

end Sys2Proof.Machine
end

section
/-! The Read Queue's insertion (rules R174, R176, R177) and the completions the block ignores (rule R183). -/

namespace Sys2Proof.Machine

/-! ### A stale completion -/

theorem tagMatches_iff {c : Ctl} {tag : Nat} :
    tagMatches c tag = true ↔ ∃ p, c.tx.txpend = some p ∧ tag = p.gen ∧ p.gen = c.tx.gen := by
  cases h : c.tx.txpend <;> simp [tagMatches, h]

/-- Settles O24: the completion's tag matches no message with the transport. -/
theorem completionStale : Obligations.CompletionStale := by
  intro s i status tag stale
  have unmatched : ¬tagMatches (s.ctl i) tag = true := fun h => by
    obtain ⟨p, pending, tagged, current⟩ := tagMatches_iff.1 h
    exact (stale p pending).elim (· tagged) (· current)
  refine runOp_of_ok (m := transmitDone i status tag) ?_
  rw [transmitDone, op_bind_ok (getCtl_apply i s), if_neg unmatched]
  rfl

/-! ### An item entering the queue -/

/-- The three forms of a normalised frame: padded, cut, or as it came. -/
theorem normalise_eq (f : List Byte) :
    normalise f = if f.length < ethMin then f ++ List.replicate (ethMin - f.length) 0
      else if ethMax < f.length then f.take ethMax else f := by
  unfold normalise
  split
  next short =>
    refine List.take_of_length_le ?_
    simp only [List.length_append, List.length_replicate, ethMin, ethMax] at short ⊢
    omega
  next long =>
    rw [Nat.sub_eq_zero_of_le (Nat.le_of_not_lt long), List.replicate_zero, List.append_nil]
    split
    next => rfl
    next fits => exact List.take_of_length_le (Nat.le_of_not_lt fits)

/-- A frame is counted as a runt or as a giant, each by its own length alone: no frame is both. -/
theorem normaliseStats_eq (f : List Byte) (t : Stats) :
    normaliseStats f t = { t with
      runt := t.runt + (if f.length < ethMin then 1 else 0)
      giant := t.giant + (if ethMax < f.length then 1 else 0) } := by
  unfold normaliseStats
  split
  next short =>
    have notGiant : ¬ethMax < f.length := by
      simp only [ethMin, ethMax] at short ⊢
      omega
    rw [if_neg notGiant]
    rfl
  next => split <;> rfl

/-- Settles O42: the normalised frame's length and form, its counters, and the queue by whether it was full. -/
theorem readQueueInsert : Obligations.ReadQueueInsert := by
  intro cap kind f c n b full
  have entered : normalise f = b := normalise_eq f
  obtain ⟨least, most⟩ := normalise_length f
  rw [entered] at least most
  refine ⟨least, most, ?_⟩
  rw [rqInsertCtl, entered, normaliseStats_eq]
  by_cases h : c.queue.readq.length = cap
  · have isFull : full = true := decide_eq_true h
    rw [queueAfter, insertStats, if_pos h, if_pos h, isFull]
    rfl
  · have notFull : full = false := decide_eq_false h
    rw [queueAfter, insertStats, if_neg h, if_neg h, notFull]
    rfl

end Sys2Proof.Machine
end

section
/-! The coordinator's operations, the requests they follow from, and an acknowledge (rules R193 to R195, R197 to R199). -/

namespace Sys2Proof.Machine

variable {i : Inst} {s : State}

/-! ### Setting and withdrawing a request -/

theorem setInt_of_pending (h : (s.ctl i).pending = true) : setInt i s = s := if_pos h

theorem setInt_of_idle (h : (s.ctl i).pending = false) :
    setInt i s = (s.setCtl i ((s.ctl i).setPending true)).setCoord (s.count + 1) true := by
  rcases setInt_spec i s with ⟨pending, _⟩ | ⟨_, e⟩
  · simp [h] at pending
  · exact e

theorem clrInt_of_idle (h : (s.ctl i).pending = false) : clrInt i s = s := if_neg (by simp [h])

theorem clrInt_of_pending (h : (s.ctl i).pending = true) :
    clrInt i s = (s.setCtl i ((s.ctl i).setPending false)).setCoord (s.count - 1) (decide (0 < s.count - 1)) := if_pos h

/-- Settles O39: a request is counted where there was none, and taken off the count where there was one. -/
theorem coordinatorOperations : Obligations.CoordinatorOperations := by
  intro s i c
  refine ⟨setInt_of_pending, setInt_of_idle, clrInt_of_idle, fun pending => ?_⟩
  have line : decide (0 < s.count - 1) = decide (1 < s.count) := by simp only [Nat.sub_pos_iff_lt]
  rw [clrInt_of_pending pending, line]
  rfl

/-! ### When a request follows -/

/-- Settles O40: both rules, in the form that the coordinator's invariant gives the state. -/
theorem interruptRequests : Obligations.InterruptRequests := by
  intro s i old new hc
  have classic := intClassic_withRequest (i := i) (c := s.ctl i) (p := (s.ctl i).pending) old new s
  have turbo := intTurbo_withRequest (i := i) (c := s.ctl i) (p := (s.ctl i).pending) s
  rw [State.eq_withRequest hc] at classic turbo
  exact ⟨classic, turbo⟩

/-! ### An acknowledge -/

theorem exec_ack (s : State) : exec .ack s = .next (ackState s) := rfl

/-- Serving an instance withdraws its request and, in turbo mode, its latch (rule R199). -/
theorem ackState_of_target (target : ackTarget s = some i) (pending : (s.ctl i).pending = true) :
    ackState s = ((s.setCtl i (ackCtl ((s.ctl i).setPending false))).setCoord (s.count - 1)
      (decide (0 < s.count - 1))).setYield (.vector (some (instVector (s.ctl i)))) := by
  rw [ackState, target]
  simp only [clrInt_of_pending pending, State.setCoord_setCtl, onCtl_setCtl]

theorem ackCtl_eq (c : Ctl) :
    ackCtl c = c.setTlatch (if c.mode = .turbo then false else c.turbo.tlatch) := by
  unfold ackCtl
  split <;> rfl

/-- Settles O36: the scan finds instance 0 before instance 1, and serves the one it finds. -/
theorem acknowledge : Obligations.Acknowledge := by
  refine ⟨rfl, fun s => ?_⟩
  intro serve
  have served : ∀ i, ackTarget s = some i → (s.ctl i).pending = true → exec .ack s = .next (serve i) := by
    intro i target pending
    rw [exec_ack, ackState_of_target target pending, ackCtl_eq]
    rfl
  refine ⟨fun h0 => served .i0 (if_pos h0) h0, fun h0 h1 => served .i1 ?_ h1, fun h0 h1 => ?_⟩
  · simp [ackTarget, h0, h1]
  · have none : ackTarget s = none := by simp [ackTarget, h0, h1]
    rw [exec_ack, ackState, none]

end Sys2Proof.Machine
end

section
/-! A tick (rules R186, R207, R210): what the sanity half leaves, and the system-ID countdown on the state so reached. -/

namespace Sys2Proof.Machine

variable {i : Inst} {s t : State}

/-! ### The system-ID half -/

theorem sysidCountCtl_of_last {c : Ctl} (period : Nat) (h : c.timers.sysidCount - 1 = 0) :
    sysidCountCtl period c = c.setTimers { c.timers with sysidCount := period } := by
  rw [sysidCountCtl, if_pos h]

theorem sysidCountCtl_of_more {c : Ctl} (period : Nat) (h : c.timers.sysidCount - 1 ≠ 0) :
    sysidCountCtl period c = c.setTimers { c.timers with sysidCount := c.timers.sysidCount - 1 } := by
  rw [sysidCountCtl, if_neg h]

/-- The countdown, and at its last tick the broadcast of an attached instance (rule R186). -/
theorem sysidTick_apply (i : Inst) (s : State) : sysidTick i s = .ok () (sysidAfter i s) := by
  rw [sysidTick, op_bind_ok (getCtl_apply i s), op_bind_ok (getCfg_apply s), op_bind_ok (changeCtl_apply i _ s), onCtl,
    sysidAfter]
  by_cases last : (s.ctl i).timers.sysidCount - 1 = 0
  · rw [sysidCountCtl_of_last _ last]
    cases attached : (s.unit i).attached with
    | true =>
      simp only [last, decide_true, Bool.and_self, if_true, op_bind_ok (emit_apply _ _), changeCtl_apply]
      cases i <;> rfl
    | false =>
      simp only [last, decide_true, Bool.and_false, if_true, Bool.false_eq_true, if_false]
      rfl
  · rw [sysidCountCtl_of_more _ last]
    simp only [last, decide_false, Bool.false_and, Bool.false_eq_true, if_false]
    rfl

/-- A tick is its sanity half, then the system-ID countdown on the state that leaves (rule R207). -/
theorem exec_tick (h : sanityTick i s = .ok () t) : exec (.tick i) s = .next (sysidAfter i t) := by
  show runOp (tick i) s = _
  exact runOp_of_ok ((op_bind_ok h).trans (sysidTick_apply i t))

/-! ### The sanity half -/

/-- The last tick in a classic mode disarms the timer and signals a reboot (rule R210). -/
theorem sanityTick_of_last_classic (hm : (s.ctl i).mode ≠ .turbo) (h : LastTick (s.ctl i)) :
    sanityTick i s = .ok () ((onCtl i sanityCountCtl s).addEvent (.reboot i)) := by
  obtain ⟨armed, last⟩ := h
  have still : ((onCtl i sanityCountCtl s).ctl i).mode ≠ .turbo := by rwa [onCtl_ctl_same]
  rw [sanityTick, op_bind_ok (getCtl_apply i s), if_pos armed, op_bind_ok (changeCtl_apply i _ s), if_pos (by omega),
    sanityExpire, op_bind_ok (getCtl_apply i _), if_neg still, emit_apply]

/-- A full reset starts the timers again, so the countdown before it leaves nothing. -/
theorem resetState_onCtl_sanityCount (i : Inst) (s : State) :
    resetState i (onCtl i sanityCountCtl s) = resetState i s := by
  rw [resetState, resetState, onCtl_onCtl, onCtl_cfg]
  rfl

theorem sanityCountCtl_of_last {c : Ctl} (h : c.timers.sanCount = 1) :
    sanityCountCtl c = c.setTimers { c.timers with sanCount := 0, sanArmed := false } := by
  simp [sanityCountCtl, h]

theorem sanityCountCtl_of_more {c : Ctl} (armed : c.timers.sanArmed = true) (h : 2 ≤ c.timers.sanCount) :
    sanityCountCtl c = c.setTimers { c.timers with sanCount := c.timers.sanCount - 1 } := by
  have goesOn : c.timers.sanCount - 1 ≠ 0 := by omega
  simp only [sanityCountCtl, goesOn, ne_eq, not_false_eq_true, decide_true, ← armed]

/-- Settles O37: the four ways of the sanity half, each with the system-ID countdown after it. -/
theorem timerTick : Obligations.TimerTick := by
  intro s i c
  refine ⟨decodeInst_instByte _ i, fun unarmed => ?_, fun armed more => ?_, fun armed last classic => ?_,
    fun armed last turbo => ?_⟩
  · have left := sanityTick_of_not_last (u := i) (s := s) fun h => by simp [c, h.1] at unarmed
    rw [if_neg (Bool.eq_false_iff.1 unarmed)] at left
    exact exec_tick left
  · have counted := sanityTick_of_not_last (u := i) (s := s) fun h => absurd (more.trans h.2) (by decide)
    rw [if_pos armed, onCtl, sanityCountCtl_of_more armed more] at counted
    exact exec_tick counted
  · have expired := sanityTick_of_last_classic classic ⟨armed, last.le⟩
    rw [onCtl, sanityCountCtl_of_last last] at expired
    exact exec_tick expired
  · have reset := sanityTick_of_last turbo ⟨armed, last.le⟩
    rw [resetState_onCtl_sanityCount] at reset
    exact exec_tick reset

end Sys2Proof.Machine
end

section
/-! What a step does to the interrupt requests: every piece of a step changes a request only by a CSR change of
an instance in a classic mode, by the latch of one in turbo mode, or by withdrawing it (rules R194 to R198), so a property that these
keep, with the changes that touch no request, holds through the whole piece. -/

namespace Sys2Proof.Machine

/-! ### Changes that touch no request -/

/-- A change of an instance that leaves its request, what enables it and what stands behind it. A change of other fields
is one by unfolding, which `{}` says. -/
structure SameRequest (c c' : Ctl) : Prop where
  pending : c'.pending = c.pending := by rfl
  turbo : c'.mode = .turbo ↔ c.mode = .turbo := by exact Iff.rfl
  csr : c'.classic.csr = c.classic.csr := by rfl
  icrEn : c'.turbo.icrEn = c.turbo.icrEn := by rfl
  tlatch : c'.turbo.tlatch = c.turbo.tlatch := by rfl

theorem sameRequest_sanityReload (c : Ctl) : SameRequest c (sanityReloadCtl c) := by
  unfold sanityReloadCtl
  split_ifs <;> exact {}

theorem sameRequest_countTx (status : TxStatus) (c : Ctl) : SameRequest c (countTx status c) := by
  cases status with
  | ok => exact { sameRequest_sanityReload (c.setStats (txStats .ok c.stats)) with }
  | fail => exact {}

theorem sameRequest_deliver (len : Nat) (c : Ctl) : SameRequest c (deliverCtl len c) := by
  unfold deliverCtl
  split
  · exact {}
  · split <;> exact {}

/-- The edges of SE and RE arm, disarm and subscribe. -/
theorem sameRequest_edges (old new : Word) (c : Ctl) :
    SameRequest c (receiverEdgeCtl old new (sanityEdgeCtl old new c)) := by
  rw [receiverEdgeCtl_eq]
  unfold sanityEdgeCtl
  split_ifs <;> exact {}

/-- A VAR write leaves a classic instance in a classic mode (rule R112). -/
theorem varMode_classic {type : DeviceType} {old : Mode} {var : Word} (h : old ≠ .turbo) :
    varMode type old var ≠ .turbo := by
  unfold varMode
  split_ifs
  · exact h
  · decide
  · decide

/-- No change of the state outside the instances and the coordinator breaks `P`. -/
structure KeptBeside (P : State → Prop) : Prop where
  setFault : ∀ s r, P s → P (s.setFault r)
  addRefusal : ∀ s r, P s → P (s.addRefusal r)
  nextDraw : ∀ s, P s → P s.nextDraw
  setYield : ∀ s v, P s → P (s.setYield v)
  putByte : ∀ s a b, P s → P (s.putByte a b)
  setConcurrent : ∀ s v, P s → P (s.setConcurrent v)
  addTrace : ∀ s e, P s → P (s.addTrace e)
  addEvent : ∀ s e, P s → P (s.addEvent e)

/-- Nor does a change of instance `i` that touches no request. -/
structure KeptQuiet (i : Inst) (P : State → Prop) : Prop extends KeptBeside P where
  onCtl : ∀ f s, SameRequest (s.ctl i) (f (s.ctl i)) → P s → P (onCtl i f s)

/-- Nor does a change of its CSR, with the request that follows from it (rules R102, R197). -/
structure KeptClassic (i : Inst) (P : State → Prop) : Prop extends KeptQuiet i P where
  csrChange : ∀ set clr s, P s → P (csrChange i set clr s)

/-- Nor does its latch, with the request that follows from it (rules R169, R198). -/
structure KeptRings (i : Inst) (P : State → Prop) : Prop extends KeptQuiet i P where
  latchTurbo : ∀ s, P s → P (latchTurbo i s)

/-- Taking the error of an access that fails with `ctx` keeps `P`. -/
def Taken (i : Inst) (P : State → Prop) (ctx : NxmCtx) : Prop := ∀ s, P s → P (nxmState i ctx s)

variable {P : State → Prop} {α : Type} {i : Inst} {ctx : NxmCtx}

namespace KeptBeside

theorem observe (hP : KeptBeside P) (s : State) (h : P s) : P (observe s) :=
  landDue_keeps hP.putByte hP.setConcurrent h

theorem barrier (hP : KeptBeside P) : Keeps P barrier := Keeps.change fun s => hP.addTrace s _

theorem emit (hP : KeptBeside P) {e : OutEvent} : Keeps P (emit e) := Keeps.change fun s => hP.addEvent s _

theorem draw (hP : KeptBeside P) {f : Nat → α} : Keeps P (draw f) := fun s => hP.nextDraw s

theorem yieldData (hP : KeptBeside P) {v : Word} : Keeps P (yieldData v) := Keeps.change fun s => hP.setYield s _

theorem refuse (hP : KeptBeside P) {r : RefuseReason} : Keeps P (refuse r : Op α) := fun s => hP.addRefusal s r

theorem faultStop (hP : KeptBeside P) {r : FaultReason} : Keeps P (faultStop r : Op α) := fun s => hP.setFault s r

theorem yieldStation (hP : KeptBeside P) {b : Byte} : Keeps P (yieldStation b) := hP.draw.bind fun _ => hP.yieldData

theorem txStatus (hP : KeptBeside P) {status : TxStatus} : Keeps P (txStatus status) := by
  refine Keeps.ask.bind fun _ => ?_
  cases status with
  | ok => exact Keeps.pure
  | fail => exact hP.draw.bind fun _ => Keeps.pure

end KeptBeside

namespace KeptQuiet

theorem changeCtl (hP : KeptQuiet i P) {f : Ctl → Ctl} (h : ∀ c, SameRequest c (f c)) : Keeps P (changeCtl i f) :=
  Keeps.change fun s => hP.onCtl f s (h _)

/-! #### Guest-memory accesses -/

theorem readByte (hP : KeptQuiet i P) (hx : Taken i P ctx) {a : Addr} : Keeps P (readByte i ctx a) := by
  intro s hs
  rcases readByte_cases i ctx a s with ⟨_, e⟩ | ⟨_, e⟩ <;> rw [e]
  · exact hP.observe s hs
  · exact hx _ (hP.observe s hs)

theorem readWord (hP : KeptQuiet i P) (hx : Taken i P ctx) {a : Addr} : Keeps P (readWord i ctx a) := by
  intro s hs
  rcases readWord_cases i ctx a s with ⟨_, e⟩ | ⟨_, e⟩ | ⟨_, _, e⟩ <;> rw [e]
  · exact hP.addRefusal _ _ hs
  · exact hP.observe s hs
  · exact hx _ (hP.observe s hs)

theorem writeByte (hP : KeptQuiet i P) (hx : Taken i P ctx) {a : Addr} {b : Byte} : Keeps P (writeByte i ctx a b) := by
  intro s hs
  rcases writeByte_cases i ctx a b s with ⟨_, e⟩ | ⟨_, e⟩ <;> rw [e]
  · exact hP.addTrace _ _ (hP.putByte _ _ _ (hP.observe s hs))
  · exact hx _ (hP.observe s hs)

theorem writeWord (hP : KeptQuiet i P) (hx : Taken i P ctx) {a : Addr} {v : Word} : Keeps P (writeWord i ctx a v) := by
  intro s hs
  rcases writeWord_cases i ctx a v s with ⟨_, e⟩ | ⟨_, e⟩ | ⟨_, _, e⟩ <;> rw [e]
  · exact hP.addRefusal _ _ hs
  · exact hP.addTrace _ _ (hP.putByte _ _ _ (hP.putByte _ _ _ (hP.observe s hs)))
  · exact hx _ (hP.observe s hs)

theorem readBytes (hP : KeptQuiet i P) (hx : Taken i P ctx) (n : Nat) (a : Addr) : Keeps P (readBytes i ctx n a) := by
  induction n generalizing a with
  | zero => exact Keeps.pure
  | succ n ih => exact (hP.readByte hx).bind fun _ => (ih _).bind fun _ => Keeps.pure

theorem writeBytes (hP : KeptQuiet i P) (hx : Taken i P ctx) (a : Addr) (bs : List Byte) :
    Keeps P (writeBytes i ctx a bs) := by
  induction bs generalizing a with
  | nil => exact Keeps.pure
  | cons b rest ih => exact (hP.writeByte hx).bind fun _ => ih _

theorem statusPair (hP : KeptQuiet i P) (hx : Taken i P ctx) {p : Addr} {sw1 sw2 : Word} :
    Keeps P (statusPair i ctx p sw1 sw2) :=
  (hP.writeWord hx).bind fun _ => hP.barrier.bind fun _ => hP.writeWord hx

/-! #### Walks, the Read Queue, the timers and the setup processor -/

theorem freeWalk (hP : KeptQuiet i P) {pass : α → Op (Pass α)} (h : ∀ a, Keeps P (pass a)) (a : α) :
    Keeps P (freeWalk i pass a) :=
  freeWalk_piece (I := fun _ => P) (Q := fun _ => P) (fun a => (h a).passPost) (fun _ s => hP.onCtl _ s {}) a

theorem rqInsert (hP : KeptQuiet i P) {kind : ItemKind} {f : List Byte} : Keeps P (rqInsert i kind f) :=
  Keeps.ask.bind fun _ => hP.changeCtl fun _ => {}

theorem sanityReload (hP : KeptQuiet i P) : Keeps P (sanityReload i) := hP.changeCtl sameRequest_sanityReload

theorem sysidTick (hP : KeptQuiet i P) : Keeps P (sysidTick i) :=
  Keeps.ask.bind fun _ => Keeps.ask.bind fun _ => (hP.changeCtl fun _ => {}).bind fun _ =>
    Keeps.ite (hP.emit.bind fun _ => hP.changeCtl fun _ => {}) Keeps.pure

theorem setupProcess (hP : KeptQuiet i P) {f : List Byte} : Keeps P (setupProcess i f) :=
  Keeps.ask.bind fun _ => (hP.changeCtl fun _ => {}).bind fun _ => Keeps.ask.bind fun _ => hP.emit.bind fun _ =>
    hP.sanityReload

theorem txGather (hP : KeptQuiet i P) (hx : Taken i P ctx) {n : Nat} {a : Addr} : Keeps P (txGather i ctx n a) :=
  Keeps.ask.bind fun _ => (hP.readBytes hx _ _).bind fun _ => hP.changeCtl fun _ => {}

theorem handOff (hP : KeptQuiet i P) {p : Addr} {f : List Byte} : Keeps P (handOff i p f) :=
  Keeps.ask.bind fun _ => hP.emit.bind fun _ => hP.changeCtl fun _ => {}

theorem readInitBlock (hP : KeptQuiet i P) (hx : Taken i P .initBlock) {l : TurboLayout} {p : Addr} :
    Keeps P (readInitBlock i l p) := by
  have word : ∀ {a : Addr}, Keeps P (Machine.readWord i .initBlock a) := hP.readWord hx
  have base : ∀ {pos : Nat} {lo hi : Addr}, Keeps P (readRingBase i pos lo hi) :=
    word.bind fun _ => word.bind fun _ => Keeps.pure
  exact word.bind fun _ => (hP.readBytes hx _ _).bind fun _ => (hP.readBytes hx _ _).bind fun _ => word.bind fun _ =>
    word.bind fun _ => word.bind fun _ => (hP.readBytes hx _ _).bind fun _ => base.bind fun _ => base.bind fun _ =>
      Keeps.pure

end KeptQuiet

/-! ### The classic lists -/

namespace KeptClassic

/-- NXM is a change of the buffer and one of the CSR (rule R188). -/
theorem taken (hP : KeptClassic i P) (h : (ctx == .initBlock || ctx == .ring) = false) : Taken i P ctx := by
  intro s hs
  have noInit : ctx ≠ .initBlock := by rintro rfl; cases h
  have noRing : ctx ≠ .ring := by rintro rfl; cases h
  rw [nxmState_of_classic noInit noRing]
  exact hP.csrChange _ _ _ (hP.onCtl _ _ {} hs)

theorem csrDevice (hP : KeptClassic i P) {set clr : Word} : Keeps P (csrDevice i set clr) :=
  Keeps.change (hP.csrChange set clr)

theorem csrEdges (hP : KeptClassic i P) {set clr : Word} : Keeps P (change (csrEdges i set clr)) :=
  Keeps.change fun s h => by
    unfold Machine.csrEdges
    exact hP.onCtl _ _ (sameRequest_edges _ _ _) (hP.csrChange set clr s h)

theorem classicWalk (hP : KeptClassic i P) {pass : Unit → Op (Pass Unit)} (h : Keeps P (pass ())) :
    Keeps P (classicWalk i pass) :=
  classicWalk_piece h.passPost (fun s => hP.onCtl _ s {}) (hP.taken rfl)

theorem fetchDesc (hP : KeptClassic i P) {p : Addr} : Keeps P (fetchDesc i p) := by
  have word : ∀ {a : Addr}, Keeps P (Machine.readWord i .fetch a) := hP.readWord (hP.taken rfl)
  exact Keeps.ask.bind fun _ => Keeps.when (hP.writeWord (hP.taken rfl)) fun _ => word.bind fun _ =>
    word.bind fun _ => word.bind fun _ => word.bind fun _ => word.bind fun _ => word.bind fun _ => Keeps.pure

theorem rxDeliver (hP : KeptClassic i P) {p : Addr} {d : Desc} {q : Item} {loss : Nat} :
    Keeps P (rxDeliver i p d q loss) :=
  (hP.writeBytes (hP.taken rfl) _ _).bind fun _ => (hP.statusPair (hP.taken rfl)).bind fun _ =>
    (hP.changeCtl (sameRequest_deliver _)).bind fun _ => hP.csrDevice.bind fun _ => hP.changeCtl fun _ => {}

theorem rxPass (hP : KeptClassic i P) (a : Unit) : Keeps P (rxPass i a) := by
  refine Keeps.ask.bind fun c => hP.fetchDesc.bind fun d => Keeps.ite (hP.csrDevice.bind fun _ => Keeps.pure) <|
    Keeps.ite ((hP.changeCtl fun _ => {}).bind fun _ => Keeps.pure) ?_
  cases c.queue.readq with
  | nil => exact Keeps.pure
  | cons q rest => exact hP.rxDeliver.bind fun _ => Keeps.pure

theorem rxDispatch (hP : KeptClassic i P) : Keeps P (rxDispatch i) :=
  Keeps.ask.bind fun _ => Keeps.ite Keeps.pure (hP.classicWalk (hP.rxPass ()))

theorem txComplete (hP : KeptClassic i P) {status : TxStatus} : Keeps P (txComplete i status) :=
  Keeps.ask.bind fun _ => hP.txStatus.bind fun _ => (hP.statusPair (hP.taken rfl)).bind fun _ =>
    (hP.changeCtl (sameRequest_countTx status)).bind fun _ => hP.csrDevice.bind fun _ =>
      (hP.changeCtl fun _ => {}).bind fun _ => hP.rxDispatch

theorem txEom (hP : KeptClassic i P) {d : Desc} : Keeps P (txEom i d) :=
  Keeps.ask.bind fun _ => Keeps.ask.bind fun _ => (hP.changeCtl fun _ => {}).bind fun _ =>
    Keeps.ite (hP.setupProcess.bind fun _ => hP.rqInsert.bind fun _ => hP.txComplete) <|
    Keeps.ite (Keeps.when hP.rqInsert fun _ => hP.txComplete) <|
    Keeps.ite hP.txComplete (hP.handOff.bind fun _ => Keeps.stopWith)

theorem txPass (hP : KeptClassic i P) (a : Unit) : Keeps P (txPass i a) := by
  have segment : ∀ p, Keeps P (txSegmentDone i p) := fun _ =>
    (hP.statusPair (hP.taken rfl)).bind fun _ => hP.changeCtl fun _ => {}
  exact Keeps.ask.bind fun _ => hP.fetchDesc.bind fun _ => Keeps.ite (hP.csrDevice.bind fun _ => Keeps.pure) <|
    Keeps.ite ((hP.changeCtl fun _ => {}).bind fun _ => Keeps.pure) <| (hP.txGather (hP.taken rfl)).bind fun _ =>
      Keeps.ite (hP.txEom.bind fun _ => Keeps.pure) ((segment _).bind fun _ => Keeps.pure)

theorem txDispatch (hP : KeptClassic i P) : Keeps P (txDispatch i) :=
  Keeps.ask.bind fun _ => Keeps.ite Keeps.pure (hP.classicWalk (hP.txPass ()))

end KeptClassic

/-! ### The turbo rings -/

namespace KeptRings

/-- NXM_T is a change of SRR, the rings and the subscription, and the latch (rule R189). -/
theorem taken_ring (hP : KeptRings i P) : Taken i P .ring := fun _ hs => hP.latchTurbo _ (hP.onCtl _ _ {} hs)

theorem taken_initBlock (hP : KeptRings i P) : Taken i P .initBlock := fun _ hs => hP.taken_ring _ (hP.onCtl _ _ {} hs)

theorem word (hP : KeptRings i P) {a : Addr} : Keeps P (readWord i .ring a) := hP.readWord hP.taken_ring

theorem slotDone (hP : KeptRings i P) {base : Addr} {n idx : Nat} {w : Word} : Keeps P (slotDone i base n idx w) :=
  Keeps.ask.bind fun _ => (hP.writeWord hP.taken_ring).bind fun _ => hP.word.bind fun _ => hP.barrier.bind fun _ =>
    hP.writeWord hP.taken_ring

theorem batchDone (hP : KeptRings i P) {n : Nat} : Keeps P (batchDone i n) :=
  Keeps.ite (Keeps.change hP.latchTurbo) Keeps.pure

theorem ringRxFill (hP : KeptRings i P) {p : Addr} {c : Ctl} {q : Item} : Keeps P (ringRxFill i p c q) :=
  Keeps.ask.bind fun _ => hP.word.bind fun _ => hP.word.bind fun _ => hP.word.bind fun _ =>
    (hP.writeBytes hP.taken_ring _ _).bind fun _ => (hP.writeWord hP.taken_ring).bind fun _ => hP.slotDone.bind fun _ =>
      (hP.changeCtl (sameRequest_deliver _)).bind fun _ => hP.changeCtl fun _ => {}

theorem ringRxPass (hP : KeptRings i P) (n : Nat) : Keeps P (ringRxPass i n) := by
  refine Keeps.ask.bind fun c => Keeps.ask.bind fun cfg => ?_
  cases c.queue.readq with
  | nil => exact Keeps.pure
  | cons q rest => exact hP.word.bind fun _ => Keeps.ite Keeps.pure (hP.ringRxFill.bind fun _ => Keeps.pure)

theorem ringRx (hP : KeptRings i P) : Keeps P (ringRx i) :=
  Keeps.ask.bind fun _ => Keeps.ite ((hP.freeWalk hP.ringRxPass 0).bind fun _ => hP.batchDone) Keeps.pure

theorem ringTxDone (hP : KeptRings i P) {failed : Bool} : Keeps P (ringTxDone i failed) :=
  Keeps.ask.bind fun _ => Keeps.ask.bind fun _ => hP.slotDone.bind fun _ => hP.changeCtl fun _ => {}

theorem ringTxPacket (hP : KeptRings i P) {p : Addr} {n : Nat} : Keeps P (ringTxPacket i p n) :=
  Keeps.ask.bind fun _ => Keeps.ask.bind fun _ => (hP.changeCtl fun _ => {}).bind fun _ =>
    Keeps.ite (hP.ringTxDone.bind fun _ => hP.changeCtl (sameRequest_countTx .fail))
      (hP.handOff.bind fun _ => hP.batchDone.bind fun _ => Keeps.stopWith)

theorem ringTxPass (hP : KeptRings i P) (n : Nat) : Keeps P (ringTxPass i n) :=
  Keeps.ask.bind fun _ => Keeps.ask.bind fun _ => hP.word.bind fun _ => Keeps.ite Keeps.pure <|
    hP.word.bind fun _ => hP.word.bind fun _ => hP.word.bind fun _ => Keeps.when (hP.changeCtl fun _ => {}) fun _ =>
      (hP.txGather hP.taken_ring).bind fun _ =>
        Keeps.ite (hP.ringTxPacket.bind fun _ => Keeps.pure) (hP.ringTxDone.bind fun _ => Keeps.pure)

theorem ringTx (hP : KeptRings i P) {n : Nat} : Keeps P (ringTx i n) :=
  Keeps.ask.bind fun _ => Keeps.ite ((hP.freeWalk hP.ringTxPass n).bind fun _ => hP.batchDone) Keeps.pure

theorem initBlockLoad (hP : KeptRings i P) : Keeps P (initBlockLoad i) :=
  Keeps.ask.bind fun _ => Keeps.ask.bind fun _ => (hP.readInitBlock hP.taken_initBlock).bind fun _ =>
    (hP.changeCtl fun _ => {}).bind fun _ => hP.emit

theorem turboStart (hP : KeptRings i P) : Keeps P (turboStart i) :=
  Keeps.ask.bind fun _ => Keeps.when hP.faultStop fun _ => hP.initBlockLoad.bind fun _ =>
    (hP.changeCtl fun _ => {}).bind fun _ => (Keeps.change hP.latchTurbo).bind fun _ => hP.ringRx

theorem turboTxComplete (hP : KeptRings i P) {status : TxStatus} : Keeps P (turboTxComplete i status) :=
  Keeps.ask.bind fun _ => Keeps.ask.bind fun _ => hP.slotDone.bind fun _ =>
    (hP.changeCtl (sameRequest_countTx status)).bind fun _ => (hP.changeCtl fun _ => {}).bind fun _ =>
      (hP.changeCtl fun _ => {}).bind fun _ => hP.ringTx

end KeptRings

end Sys2Proof.Machine
end

section
/-! A property of the state that the rules of the interrupt requests keep holds through every operation and every step
(rules R193 to R199, R217); the coordinator's invariant and the justification of the requests are two such properties. -/

namespace Sys2Proof.Machine

/-! ### The rules of the requests -/

/-- `Inv` is kept by a change that touches no request, and by every change of a request that a rule allows: a CSR
change in a classic mode (rule R197), a change of the latch or of what enables it in turbo mode (rule R198), and a withdrawal that
leaves no enabled latch behind (rules R161, R199, R217). -/
structure RequestRules (Inv : State → Prop) : Prop extends KeptBeside Inv where
  setInputs : ∀ s v, Inv s → Inv (s.setInputs v)
  onCtl : ∀ i f s, SameRequest (s.ctl i) (f (s.ctl i)) → Inv s → Inv (onCtl i f s)
  csrChange : ∀ i set clr s, (s.ctl i).mode ≠ .turbo → Inv s → Inv (csrChange i set clr s)
  retrigger : ∀ i f s, (f (s.ctl i)).pending = (s.ctl i).pending → (f (s.ctl i)).mode = .turbo → Inv s →
    Inv (intTurbo i (Machine.onCtl i f s))
  withdraw : ∀ i f s, (f (s.ctl i)).pending = (s.ctl i).pending →
    ((f (s.ctl i)).mode = .turbo → (f (s.ctl i)).turbo.tlatch = false) → Inv s → Inv (clrInt i (Machine.onCtl i f s))
  allIdle : ∀ s, s.i0.pending = false → s.i1.pending = false → Inv s → Inv (s.setCoord 0 false)

/-- `Inv` holds, and `R` of instance `i`. -/
structure Under (Inv : State → Prop) (i : Inst) (R : Ctl → Prop) (t : State) : Prop where
  inv : Inv t
  holds : R (t.ctl i)

/-- The instance is in a classic mode. -/
abbrev InClassic (c : Ctl) : Prop := c.mode ≠ .turbo

variable {Inv : State → Prop} {R : Ctl → Prop} {i : Inst} {m : Mode} {s t : State}

/-- A piece that keeps the mode too leaves a state in which `Inv` holds. -/
theorem Keeps.inv {α : Type} {n : Op α} (h : Keeps (Under Inv i R) n) : Piece (Under Inv i R) n (fun _ => Inv) Inv :=
  h.weaken (fun _ h => h) (fun _ _ h => h.inv) fun _ h => h.inv

/-- What goes on in the walk of the mode that the instance is found in. -/
theorem keeps_byMode {rings lists : Op Unit} (hr : Keeps (Under Inv i (InMode .turbo)) rings)
    (hl : Keeps (Under Inv i InClassic) lists) :
    Keeps Inv (getCtl i >>= fun c => if c.mode = .turbo then rings else lists) :=
  Piece.getCtl fun _ => Piece.branch
    (fun turbo => hr.inv.weaken (fun _ h => ⟨h.1, h.2 ▸ turbo⟩) (fun _ _ h => h) fun _ h => h)
    fun classic => hl.inv.weaken (fun _ h => ⟨h.1, h.2 ▸ classic⟩) (fun _ _ h => h) fun _ h => h

/-- Serving an acknowledge withdraws the request of the instance without its latch. -/
theorem onCtl_ack_clrInt (i : Inst) (s : State) : onCtl i ackCtl (clrInt i s) = clrInt i (onCtl i ackCtl s) := by
  have kept : (ackCtl (s.ctl i)).pending = (s.ctl i).pending := by rw [ackCtl_eq]; rfl
  have comm : ackCtl ((s.ctl i).setPending false) = (ackCtl (s.ctl i)).setPending false := by
    rw [ackCtl_eq, ackCtl_eq]
    rfl
  cases h : (s.ctl i).pending with
  | false => rw [clrInt_of_idle h, clrInt_of_idle (by rw [onCtl_ctl_same, kept, h])]
  | true =>
    rw [clrInt_of_pending h, clrInt_of_pending (by rw [onCtl_ctl_same, kept, h]), State.setCoord_setCtl, onCtl_setCtl,
      comm, onCtl_ctl_same, onCtl_count, onCtl, State.setCoord_setCtl, State.setCoord_setCtl, State.setCtl_setCtl]

theorem resetState_pending (i : Inst) (s : State) : ((resetState i s).ctl i).pending = false := by
  rw [resetState, State.addEvent_ctl, clrInt_pending]

namespace RequestRules

theorem quiet (hI : RequestRules Inv) : KeptQuiet i Inv := ⟨hI.toKeptBeside, hI.onCtl i⟩

/-- Beside a property of the instance that such changes keep, `Inv` is kept alike. -/
theorem quiet_under (hI : RequestRules Inv) (hR : ∀ c c', SameRequest c c' → R c → R c') :
    KeptQuiet i (Under Inv i R) where
  setFault s r h := ⟨hI.setFault s r h.inv, (s.setFault_ctl r i).symm ▸ h.holds⟩
  addRefusal s r h := ⟨hI.addRefusal s r h.inv, (s.addRefusal_ctl r i).symm ▸ h.holds⟩
  nextDraw s h := ⟨hI.nextDraw s h.inv, (s.nextDraw_ctl i).symm ▸ h.holds⟩
  setYield s v h := ⟨hI.setYield s v h.inv, (s.setYield_ctl v i).symm ▸ h.holds⟩
  putByte s a b h := ⟨hI.putByte s a b h.inv, (s.putByte_ctl a b i).symm ▸ h.holds⟩
  setConcurrent s v h := ⟨hI.setConcurrent s v h.inv, (s.setConcurrent_ctl v i).symm ▸ h.holds⟩
  addTrace s e h := ⟨hI.addTrace s e h.inv, (s.addTrace_ctl e i).symm ▸ h.holds⟩
  addEvent s e h := ⟨hI.addEvent s e h.inv, (s.addEvent_ctl e i).symm ▸ h.holds⟩
  onCtl f s hf h := ⟨hI.onCtl i f s hf h.inv, (onCtl_ctl_same i f s).symm ▸ hR _ _ hf h.holds⟩

theorem classic (hI : RequestRules Inv) : KeptClassic i (Under Inv i InClassic) where
  toKeptQuiet := hI.quiet_under fun _ _ hc h turbo => h (hc.turbo.1 turbo)
  csrChange set clr s h := ⟨hI.csrChange i set clr s h.holds h.inv,
    fun turbo => h.holds ((csrChange_mode_ctl i set clr s).symm.trans turbo)⟩

theorem rings (hI : RequestRules Inv) : KeptRings i (Under Inv i (InMode .turbo)) where
  toKeptQuiet := hI.quiet_under fun _ _ hc h => hc.turbo.2 h
  latchTurbo s h := ⟨hI.retrigger i _ s rfl h.holds h.inv, (latchTurbo_mode_ctl i s).trans h.holds⟩

/-! ### Resets, entering turbo mode, an acknowledge -/

theorem resetState (hI : RequestRules Inv) (h : Inv s) : Inv (resetState i s) :=
  hI.addEvent _ _ (hI.withdraw i _ s rfl (fun _ => rfl) h)

theorem resetFull (hI : RequestRules Inv) : Keeps Inv (resetFull i) := Keeps.change fun _ => hI.resetState

theorem turboEnter (hI : RequestRules Inv) : Keeps Inv (turboEnter i) :=
  Keeps.change fun s => hI.withdraw i _ s rfl fun _ => rfl

theorem ackState (hI : RequestRules Inv) (h : Inv s) : Inv (ackState s) := by
  unfold Machine.ackState
  cases ackTarget s with
  | none => exact hI.setYield _ _ h
  | some j =>
    simp only [onCtl_ack_clrInt]
    refine hI.setYield _ _ (hI.withdraw j _ s ?_ (fun turbo => ?_) h)
    · rw [ackCtl_eq]; rfl
    · rw [ackCtl_eq] at turbo ⊢
      exact if_pos turbo

/-- Power-on resets both instances, so the coordinator's count is 0 already. -/
theorem powerOn (hI : RequestRules Inv) (h : execPoweron s = .next t) (hs : Inv s) : Inv t := by
  have inst : ∀ (j : Inst) (u : State), Inv u → Inv (Machine.resetState j (Machine.onCtl j powerOnCtl u)) :=
    fun j u hu => hI.resetState (hI.onCtl j _ u {} hu)
  rw [← runOp_next.1 h]
  refine hI.allIdle _ ?_ (resetState_pending .i1 _) (inst .i1 _ (inst .i0 s hs))
  rw [← State.ctl_i0]
  refine (congrArg Ctl.pending ((resetState_ctl_other .i1 _).trans (onCtl_ctl_other .i1 _ _))).trans ?_
  exact resetState_pending .i0 _

/-! ### Register writes -/

theorem writeRbdlHi (hI : RequestRules Inv) {d : Word} :
    Piece (Under Inv i InClassic) (writeRbdlHi i d) (fun _ => Inv) Inv := by
  have list : ∀ a, Keeps (Under Inv i InClassic) (do
      changeCtl i (·.setRptr a)
      csrDevice i 0 Csr.rlMask
      rxDispatch i) :=
    fun _ => (hI.classic.changeCtl fun _ => {}).bind fun _ => hI.classic.csrDevice.bind fun _ => hI.classic.rxDispatch
  exact (Keeps.ask.toPiece fun _ h => h.inv).bind fun _ => (Keeps.ask.toPiece fun _ h => h.inv).bind fun _ =>
    Piece.branch (fun _ => hI.turboEnter.weaken (fun _ h => h.inv) (fun _ _ h => h) fun _ h => h) fun _ => (list _).inv

theorem writeXbdlHi (hI : RequestRules Inv) {d : Word} : Keeps (Under Inv i InClassic) (writeXbdlHi i d) :=
  Keeps.ask.bind fun _ => Keeps.when hI.classic.faultStop fun _ =>
    (hI.classic.changeCtl fun _ => {}).bind fun _ => hI.classic.csrDevice.bind fun _ => hI.classic.txDispatch

theorem writeVar (hI : RequestRules Inv) {d : Word} : Keeps (Under Inv i InClassic) (writeVar i d) :=
  Keeps.ask.bind fun _ => Keeps.change fun _ h => hI.classic.onCtl _ _
    { turbo := ⟨fun turbo => absurd turbo (varMode_classic h.holds), fun turbo => absurd turbo h.holds⟩ } h

theorem writeCsr (hI : RequestRules Inv) {d : Word} :
    Piece (Under Inv i InClassic) (writeCsr i d) (fun _ => Inv) Inv :=
  (Keeps.ask.toPiece fun _ h => h.inv).bind fun _ => (hI.classic.csrEdges.toPiece fun _ h => h.inv).bind fun _ =>
    Piece.when (fun _ => hI.classic.rxDispatch.inv) (fun _ _ h => h.inv) fun _ => Keeps.ite hI.resetFull Keeps.pure

theorem writeIcr (hI : RequestRules Inv) {d : Word} :
    Piece (Under Inv i (InMode .turbo)) (writeIcr i d) (fun _ => Inv) Inv := by
  intro s h
  exact hI.retrigger i _ s rfl h.holds h.inv

theorem writeSrqr (hI : RequestRules Inv) {d : Word} : Keeps (Under Inv i (InMode .turbo)) (writeSrqr i d) :=
  Keeps.ask.bind fun _ => Keeps.ite (hI.rings.turboStart.bind fun _ => hI.rings.sanityReload) Keeps.pure

theorem writeArqr (hI : RequestRules Inv) {d : Word} :
    Piece (Under Inv i (InMode .turbo)) (writeArqr i d) (fun _ => Inv) Inv := by
  have walks : ∀ rx tx : Bool, Keeps (Under Inv i (InMode .turbo)) (do
      if rx then ringRx i
      if tx then ringTx i 0) := fun _ _ => Keeps.when hI.rings.ringRx fun _ => Keeps.ite hI.rings.ringTx Keeps.pure
  exact (Keeps.ask.toPiece fun _ h => h.inv).bind fun _ => Piece.branch
    (fun _ => hI.resetFull.weaken (fun _ h => h.inv) (fun _ _ h => h) fun _ h => h) fun _ => (walks _ _).inv

/-! ### Events -/

theorem tick (hI : RequestRules Inv) : Keeps Inv (tick i) := by
  have expire : Keeps Inv (sanityExpire i) := Keeps.ask.bind fun _ => Keeps.ite hI.resetFull hI.emit
  have sanity : Keeps Inv (sanityTick i) := Keeps.ask.bind fun _ =>
    Keeps.ite ((hI.quiet.changeCtl fun _ => {}).bind fun _ => Keeps.ite expire Keeps.pure) Keeps.pure
  exact sanity.bind fun _ => hI.quiet.sysidTick

theorem receive (hI : RequestRules Inv) {f : List Byte} : Keeps Inv (receive i f) :=
  hI.quiet.rqInsert.bind fun _ => keeps_byMode hI.rings.ringRx hI.classic.rxDispatch

theorem transmitDone (hI : RequestRules Inv) {status : TxStatus} {tag : Nat} : Keeps Inv (transmitDone i status tag) := by
  have done : Keeps Inv (completed i status) := (hI.quiet.changeCtl fun _ => {}).bind fun _ =>
    keeps_byMode hI.rings.turboTxComplete (hI.classic.txComplete.bind fun _ => hI.classic.txDispatch)
  exact Keeps.ask.bind fun _ => Keeps.ite done Keeps.pure

/-! ### Operations and steps -/

theorem of_classic (hk : m ≠ .turbo) {n : Op Unit} (hn : Piece (Under Inv i InClassic) n (fun _ => Inv) Inv)
    (h : inMode m i n s = .next t) (hs : Inv s) : Inv t := by
  obtain ⟨mode, e⟩ := inMode_next.1 h
  exact e ▸ hn.endState (fun _ _ h => h) ⟨hs, fun turbo => hk (mode.symm.trans turbo)⟩

theorem of_turbo {n : Op Unit} (hn : Piece (Under Inv i (InMode .turbo)) n (fun _ => Inv) Inv)
    (h : inMode .turbo i n s = .next t) (hs : Inv s) : Inv t := by
  obtain ⟨mode, e⟩ := inMode_next.1 h
  exact e ▸ hn.endState (fun _ _ h => h) ⟨hs, mode⟩

/-- Every operation keeps a property that the rules of the requests keep. -/
theorem exec (hI : RequestRules Inv) {op : Instr} (h : exec op s = .next t) (hs : Inv s) : Inv t := by
  have latches : ∀ {j : Inst} {k : Mode} {f : Ctl → Ctl}, (∀ c, SameRequest c (f c)) →
      inMode k j (changeCtl j f) s = .next t → Inv t := fun hf h => (hI.quiet.changeCtl hf).inMode h hs
  cases op with
  | lRdSa0 j | lRdSa1 j | cRdSa0 j | cRdSa1 j =>
    exact (Keeps.ask.bind fun _ => Keeps.ask.bind fun _ => hI.yieldStation).inMode h hs
  | lRdSa2 j | lRdSa3 j | lRdSa4 j | lRdSa5 j | cRdSa2 j | cRdSa3 j | cRdSa4 j | cRdSa5 j
  | tRdSa0 j | tRdSa1 j | tRdSa2 j | tRdSa3 j | tRdSa4 j | tRdSa5 j =>
    exact (Keeps.ask.bind fun _ => hI.yieldStation).inMode h hs
  | lRdVar j | cRdVar j => exact (Keeps.ask.bind fun _ => hI.yieldData).inMode h hs
  | lRdCsr j | cRdCsr j =>
    exact (Keeps.ask.bind fun _ => Keeps.ask.bind fun _ => hI.draw.bind fun _ => hI.yieldData).inMode h hs
  | tRdSrr j => exact (Keeps.ask.bind fun _ => Keeps.ask.bind fun _ => hI.yieldData).inMode h hs
  | tRdRsv j => exact (hI.draw.bind fun _ => hI.yieldData).inMode h hs
  | lWrSa0 j d | lWrSa1 j d | cWrSa0 j d | cWrSa1 j d | tWrIgn0 j d | tWrIgn1 j d | tWrIgn5 j d =>
    exact Keeps.writeIgnored.inMode h hs
  | lWrRbdlLo j d | cWrRbdlLo j d => exact latches (fun _ => {}) h
  | lWrXbdlLo j d | cWrXbdlLo j d => exact latches (fun _ => {}) h
  | lWrRbdlHi j d | cWrRbdlHi j d => exact of_classic (by decide) hI.writeRbdlHi h hs
  | lWrXbdlHi j d | cWrXbdlHi j d => exact of_classic (by decide) hI.writeXbdlHi.inv h hs
  | lWrVar j d | cWrVar j d => exact of_classic (by decide) hI.writeVar.inv h hs
  | lWrCsr j d | cWrCsr j d => exact of_classic (by decide) hI.writeCsr h hs
  | tWrIbaLo j d => exact latches (fun _ => {}) h
  | tWrIbaHi j d => exact latches (fun _ => {}) h
  | tWrIcr j d => exact of_turbo hI.writeIcr h hs
  | tWrSrqr j d => exact of_turbo hI.writeSrqr.inv h hs
  | tWrArqr j d => exact of_turbo hI.writeArqr h hs
  | ack => exact runOp_next.1 h ▸ hI.ackState hs
  | tick j => exact hI.tick.runOp h hs
  | rxf j frame =>
    simp only [Machine.exec, execRxf] at h
    split at h
    · exact hI.receive.runOp h hs
    · cases h
  | txdone j status tag => exact hI.transmitDone.runOp h hs
  | stdone j =>
    have tested : Keeps Inv (selfTestDone j) := Keeps.ask.bind fun _ => hI.quiet.changeCtl fun _ => {}
    simp only [Machine.exec, execStdone] at h
    split at h
    · exact tested.runOp h hs
    · cases h
  | busreset => exact (hI.resetFull.bind fun _ => hI.resetFull).runOp h hs
  | poweron => exact hI.powerOn h hs
  | reserved37 | reserved38to3F code => exact hI.refuse.runOp h hs

theorem settled (hI : RequestRules Inv) {op : Instr} (h : Inv s) : Inv (settled op s) := by
  unfold Machine.settled
  split
  · exact landList_keeps hI.putByte hI.setConcurrent h
  · exact h

theorem runFetched (hI : RequestRules Inv) {f : Fetched} (h : runFetched f s = .next t) (hs : Inv s) : Inv t := by
  cases f with
  | record r =>
    simp only [Machine.runFetched, runRecord] at h
    split at h
    · simp only [runInstr] at h
      split at h
      · cases h
      · exact hI.exec h (hI.settled hs)
    · cases h
  | badAccess => cases h; exact hI.addRefusal _ _ hs
  | elsewhere => cases h; exact hs
  | driver a bytes => cases h; exact driverState_keeps hI.putByte hs
  | later w => cases h; exact hI.setConcurrent _ _ hs

/-- Every step keeps a property that the rules of the requests keep. -/
theorem step (hI : RequestRules Inv) (h : step s = .next t) (hs : Inv s) : Inv t := by
  cases hf : s.fault with
  | some r => rw [step_of_fault hf] at h; cases h
  | none =>
    cases hc : coordinatorOk s with
    | false => rw [step_of_brokenCoordinator hf hc] at h; cases h; exact hI.setFault _ _ hs
    | true =>
      rw [step_of_sound hf hc] at h
      cases hi : s.inputs with
      | nil => rw [runInputs_nil hi] at h; cases h; exact hs
      | cons x rest => rw [runInputs_cons hi] at h; exact hI.runFetched h (hI.setInputs _ _ hs)

end RequestRules

/-! ### The coordinator (rule R193) -/

theorem requestRules_coordinatorOk : RequestRules fun s => coordinatorOk s = true where
  setFault _ _ h := h
  addRefusal _ _ h := h
  nextDraw _ h := h
  setYield _ _ h := h
  putByte s a b h := by simpa [coordinatorOk] using h
  setConcurrent _ _ h := h
  addTrace _ _ h := h
  addEvent _ _ h := h
  setInputs _ _ h := h
  onCtl _ _ _ hf h := onCtl_coordinatorOk hf.pending h
  csrChange _ _ _ _ _ h := csrChange_coordinatorOk h
  retrigger _ _ _ kept _ h := intTurbo_coordinatorOk (onCtl_coordinatorOk kept h)
  withdraw _ _ _ kept _ h := clrInt_coordinatorOk (onCtl_coordinatorOk kept h)
  allIdle s h0 h1 _ := by simp [coordinatorOk, h0, h1]

/-- Settles O47: `SetInt` and `ClrInt` keep the invariant, and nothing else changes a pending flag, the count or the
line. -/
theorem stepKeepsCoordinator : Obligations.StepKeepsCoordinator :=
  fun _ _ hs h => requestRules_coordinatorOk.step h hs

/-! ### Justified requests (rules R197, R198, R200) -/

/-- A CSR change that does not withdraw the request leaves it enabled, with a completion behind it. -/
theorem intWithdraw_eq_false_iff {new : Word} : intWithdraw new = false ↔
    new.getLsbD Csr.IE = true ∧ (new.getLsbD Csr.XI = true ∨ new.getLsbD Csr.RI = true) := by
  simp only [intWithdraw, Bool.or_eq_false_iff, Bool.and_eq_false_iff, Bool.not_eq_false']

/-- An interrupt edge is no withdrawal. -/
theorem not_withdraw_of_edge {old new : Word} (h : intEdge old new = true) : intWithdraw new = false := by
  simp only [intEdge, Bool.and_eq_true, Bool.or_eq_true] at h
  obtain ⟨enabled, (⟨-, sent⟩ | ⟨-, received⟩) | ⟨-, completed⟩⟩ := h
  · exact intWithdraw_eq_false_iff.2 ⟨enabled, .inl sent⟩
  · exact intWithdraw_eq_false_iff.2 ⟨enabled, .inr received⟩
  · exact intWithdraw_eq_false_iff.2 ⟨enabled, completed⟩

theorem csrChange_requestOk {set clr : Word} (hm : (s.ctl i).mode ≠ .turbo) :
    RequestOk ((csrChange i set clr s).ctl i) := by
  rw [RequestOk, csrChange_mode_ctl, if_neg hm, csrChange_csr]
  intro pending
  refine intWithdraw_eq_false_iff.1 (Bool.eq_false_iff.2 fun withdrawn => ?_)
  unfold csrChange at pending
  rcases intClassic_cases i (s.ctl i).classic.csr (csrAfter (s.ctl i).classic.csr set clr)
    (onCtl i (·.setCsr (csrAfter (s.ctl i).classic.csr set clr)) s) with ⟨edge, _⟩ | ⟨_, _, e⟩ | ⟨_, no, _⟩
  · simp [not_withdraw_of_edge edge] at withdrawn
  · simp [e] at pending
  · simp [no] at withdrawn

theorem intTurbo_requestOk (hm : (s.ctl i).mode = .turbo) : RequestOk ((intTurbo i s).ctl i) := by
  rw [RequestOk, intTurbo_mode_ctl, if_pos hm, intTurbo_turbo_ctl]
  rcases intTurbo_cases i s with ⟨⟨enabled, latched⟩, e⟩ | ⟨idle, e⟩ <;> rw [e]
  · simp [enabled, latched]
  · simpa [Bool.and_eq_true] using idle

theorem clrInt_requestOk (h : (s.ctl i).mode = .turbo → (s.ctl i).turbo.tlatch = false) :
    RequestOk ((clrInt i s).ctl i) := by
  rw [RequestOk, clrInt_mode_ctl, clrInt_turbo_ctl, clrInt_pending]
  split
  next turbo => rw [h turbo, Bool.and_false]
  · intro pending; cases pending

theorem SameRequest.requestOk {c c' : Ctl} (h : SameRequest c c') (hc : RequestOk c) : RequestOk c' := by
  unfold RequestOk at *
  simpa only [h.turbo, h.pending, h.icrEn, h.tlatch, h.csr] using hc

/-- A change of one instance is a matter of that instance's request. -/
theorem State.RequestsOk.change (h : s.RequestsOk) (other : t.ctl i.other = s.ctl i.other) (own : RequestOk (t.ctl i)) :
    t.RequestsOk := by
  cases i with
  | i0 => exact ⟨own, (congrArg RequestOk other).mpr h.2⟩
  | i1 => exact ⟨(congrArg RequestOk other).mpr h.1, own⟩

theorem State.RequestsOk.ctl (h : s.RequestsOk) (i : Inst) : RequestOk (s.ctl i) := by
  cases i
  · exact h.1
  · exact h.2

theorem requestRules_requestsOk : RequestRules State.RequestsOk where
  setFault _ _ h := h
  addRefusal _ _ h := h
  nextDraw _ h := h
  setYield _ _ h := h
  putByte s a b h := by simpa only [State.RequestsOk, State.putByte_i0, State.putByte_i1] using h
  setConcurrent _ _ h := h
  addTrace _ _ h := h
  addEvent _ _ h := h
  setInputs _ _ h := h
  onCtl i f s hf h := h.change (onCtl_ctl_other i f s) (by rw [onCtl_ctl_same]; exact hf.requestOk (h.ctl i))
  csrChange i set clr s hm h := h.change (csrChange_ctl_other i set clr s) (csrChange_requestOk hm)
  retrigger i f s _ turbo h := h.change ((intTurbo_ctl_other i _).trans (onCtl_ctl_other i f s))
    (intTurbo_requestOk (by rwa [onCtl_ctl_same]))
  withdraw i f s _ latch h := h.change ((clrInt_ctl_other i _).trans (onCtl_ctl_other i f s))
    (clrInt_requestOk (by rwa [onCtl_ctl_same]))
  allIdle _ _ _ h := h

/-- Settles O52: a request changes only with the CSR of a classic instance or with the latch of a turbo one, each of which
leaves it justified, or is withdrawn. -/
theorem stepKeepsRequests : Obligations.StepKeepsRequests := fun _ _ hs h => requestRules_requestsOk.step h hs

end Sys2Proof.Machine
end

section
/-! The resets (rules R217, R219, R220): what a full reset, a bus reset and a power-on leave, and that the state right after
power-on meets every invariant. -/

namespace Sys2Proof.Machine

variable {i : Inst} {s : State}

/-! ### The full reset -/

/-- VAR at reset with the type's bit named by the types that set it (rules R33, R217). -/
theorem varReset_eq (u : UnitConfig) :
    varReset u = (if u.type ≠ .legacy then 0x8000 else 0) ||| (if u.optionSwitch = true then 0x4000 else 0) := by
  rw [ite_not]
  rfl

/-- A full reset gives the instance its reset values and withdraws its request (rule R217). -/
theorem resetState_eq_withRequest (h : coordinatorOk s = true) :
    resetState i s
      = (s.withRequest i (resetCtl s.cfg i (s.ctl i)) false).addEvent (.filter i [] false false) := by
  rw [resetState_eq h, State.withRequest, Bool.toNat_false, Nat.zero_add, Bool.false_or]
  rfl

/-- Settles O16: the reset values, with VAR as the statement writes it. -/
theorem fullReset : Obligations.FullReset := by
  intro s i h c u
  rw [resetState_eq_withRequest h, ← varReset_eq u]
  rfl

/-! ### A bus reset -/

/-- Where the coordinator's invariant holds and no instance is pending, the count is 0 and the line down (rule R193). -/
theorem coordinator_of_idle (h : coordinatorOk s = true) (idle : ∀ i, (s.ctl i).pending = false) :
    s.count = 0 ∧ s.line = false := by
  obtain ⟨count, line⟩ := (coordinatorOk_iff s).1 h
  have i0 : s.i0.pending = false := idle .i0
  have i1 : s.i1.pending = false := idle .i1
  have none : s.count = 0 := by rw [count, i0, i1]; rfl
  exact ⟨none, by rw [line, none]; rfl⟩

/-- After the reset of both instances neither has a request: the second leaves the first as it is. -/
theorem resetBoth_pending (s : State) (i : Inst) :
    ((resetState .i1 (resetState .i0 s)).ctl i).pending = false := by
  cases i with
  | i0 => exact (congrArg Ctl.pending (resetState_ctl_other .i1 _)).trans (resetState_pending .i0 s)
  | i1 => exact resetState_pending .i1 _

/-! ### A power-on -/

/-- Withdrawing a request changes the instance's pending flag and the coordinator, and nothing else (rule R195). -/
theorem clrInt_eq_setCoord (i : Inst) (s : State) :
    ∃ n l, clrInt i s = (onCtl i (·.setPending false) s).setCoord n l := by
  rcases clrInt_spec i s with ⟨idle, e⟩ | ⟨_, e⟩
  · have same : onCtl i (·.setPending false) s = s := by rw [← idle]; cases i <;> rfl
    exact ⟨s.count, s.line, by rw [e, same]; rfl⟩
  · exact ⟨_, _, e⟩

/-- A reset right after the generation and the counters are cleared gives the power-on values (rules R217, R220). -/
theorem resetCtl_powerOnCtl (cfg : Config) (i : Inst) (c : Ctl) :
    (resetCtl cfg i (powerOnCtl c)).setPending false = (Ctl.powerOn cfg (cfg.unit i)).setHung c.hung := rfl

/-- One instance's power-on, in a state of any coordinator (rule R220). -/
theorem resetState_powerOnCtl (i : Inst) (s : State) :
    ∃ n l, resetState i (onCtl i powerOnCtl s)
      = ((s.setCtl i ((Ctl.powerOn s.cfg (s.cfg.unit i)).setHung (s.ctl i).hung)).setCoord n l).addEvent
          (.filter i [] false false) := by
  obtain ⟨n, l, cleared⟩ := clrInt_eq_setCoord i (onCtl i (resetCtl s.cfg i) (onCtl i powerOnCtl s))
  refine ⟨n, l, ?_⟩
  rw [resetState, onCtl_cfg, cleared, onCtl_onCtl, onCtl_onCtl, ← resetCtl_powerOnCtl]
  rfl

theorem exec_busreset (s : State) : exec .busreset s = .next (resetState .i1 (resetState .i0 s)) := rfl

theorem exec_poweron (s : State) :
    exec .poweron s
      = .next ((resetState .i1 (onCtl .i1 powerOnCtl (resetState .i0 (onCtl .i0 powerOnCtl s)))).setCoord 0 false) :=
  rfl

/-- Settles O17: a bus reset keeps the coordinator's invariant and leaves no request; a power-on ends with the coordinator
at 0, whatever each instance's reset made of it. -/
theorem busResetAndPowerOn : Obligations.BusResetAndPowerOn := by
  intro s
  refine ⟨decode_encode (i := .busreset) rfl, exec_busreset s, fun h => ?_, decode_encode (i := .poweron) rfl, ?_⟩
  · have kept := requestRules_coordinatorOk.resetState (i := .i1) (requestRules_coordinatorOk.resetState (i := .i0) h)
    exact coordinator_of_idle kept (resetBoth_pending s)
  · obtain ⟨_, _, first⟩ := resetState_powerOnCtl .i0 s
    obtain ⟨_, _, second⟩ := resetState_powerOnCtl .i1 (resetState .i0 (onCtl .i0 powerOnCtl s))
    rw [exec_poweron, second, first, List.append_cons]
    rfl

/-! ### The state right after power-on -/

/-- The power-on values are reset values: power-on changes nothing in an instance that holds them (rules R217, R220). -/
theorem powerOn_eq_resetCtl (cfg : Config) (i : Inst) :
    Ctl.powerOn cfg (cfg.unit i) = resetCtl cfg i (powerOnCtl (Ctl.powerOn cfg (cfg.unit i))) := rfl

theorem powerOn_modeOk (cfg : Config) (i : Inst) : ModeOk (cfg.unit i) (Ctl.powerOn cfg (cfg.unit i)) :=
  powerOn_eq_resetCtl cfg i ▸ modeOk_reset cfg i _

theorem powerOn_registersOk (cfg : Config) (i : Inst) : RegistersOk (cfg.unit i) (Ctl.powerOn cfg (cfg.unit i)) :=
  powerOn_eq_resetCtl cfg i ▸ registersOk_reset cfg i _

theorem powerOn_mode_ne_turbo (cfg : Config) (u : UnitConfig) : (Ctl.powerOn cfg u).mode ≠ .turbo := by
  show (if u.type = .legacy then Mode.legacy else Mode.compatible) ≠ .turbo
  split <;> decide

theorem powerOn_subscriptionOk (cfg : Config) (u : UnitConfig) : SubscriptionOk (Ctl.powerOn cfg u) := by
  rw [SubscriptionOk, if_neg (powerOn_mode_ne_turbo cfg u)]
  show false = (0x0030 : Word).getLsbD Csr.RE
  decide

theorem powerOn_requestOk (cfg : Config) (u : UnitConfig) : RequestOk (Ctl.powerOn cfg u) := by
  rw [RequestOk, if_neg (powerOn_mode_ne_turbo cfg u)]
  intro pending
  cases pending

theorem powerOn_transmitOk (cfg : Config) (u : UnitConfig) : TransmitOk cfg (Ctl.powerOn cfg u) :=
  transmitOk_of_idle (Nat.zero_le _) rfl

theorem powerOn_queueOk (cfg : Config) (u : UnitConfig) : QueueOk cfg (Ctl.powerOn cfg u) :=
  ⟨Nat.zero_le _, fun _ h => by cases h⟩

theorem powerOn_timersOk {cfg : Config} (h : 1 ≤ cfg.sysidPeriod) (u : UnitConfig) : TimersOk cfg (Ctl.powerOn cfg u) :=
  ⟨Nat.zero_le _, fun h => (by cases h), h, Nat.le_refl _⟩

theorem powerOn_ringsOk {cfg : Config} (hr : 1 ≤ cfg.rxRingN) (ht : 1 ≤ cfg.txRingN) (u : UnitConfig) :
    RingsOk cfg (Ctl.powerOn cfg u) :=
  ⟨hr, ht⟩

theorem powerOn_coordinatorOk (cfg : Config) : coordinatorOk (State.powerOn cfg) = true :=
  (coordinatorOk_iff _).2 ⟨rfl, rfl⟩

theorem powerOn_memoryOk (cfg : Config) : (State.powerOn cfg).MemoryOk := ⟨rfl, fun _ h => by cases h⟩

/-- A well-formed configuration has a period and rings that are not empty (decisions D10, D12). -/
theorem counts_of_wellFormed {cfg : Config} (h : cfg.wellFormed = true) :
    1 ≤ cfg.sysidPeriod ∧ 1 ≤ cfg.rxRingN ∧ 1 ≤ cfg.txRingN := by
  simp only [Config.wellFormed, Bool.and_eq_true, decide_eq_true_eq] at h
  obtain ⟨⟨⟨⟨⟨⟨-, period⟩, rx⟩, tx⟩, -⟩, -⟩, -⟩ := h
  exact ⟨period, rx, tx⟩

/-- Settles O56: each invariant holds of an instance right after power-on, in both instances. -/
theorem resetLegal : Obligations.ResetLegal := by
  refine ⟨fun cfg wf => ?_, rfl, by decide⟩
  obtain ⟨period, rx, tx⟩ := counts_of_wellFormed wf
  exact ⟨powerOn_coordinatorOk cfg, powerOn_memoryOk cfg,
    ⟨powerOn_modeOk cfg .i0, powerOn_modeOk cfg .i1⟩,
    ⟨powerOn_registersOk cfg .i0, powerOn_registersOk cfg .i1⟩,
    ⟨powerOn_subscriptionOk cfg _, powerOn_subscriptionOk cfg _⟩,
    ⟨powerOn_requestOk cfg _, powerOn_requestOk cfg _⟩,
    ⟨powerOn_transmitOk cfg _, powerOn_transmitOk cfg _⟩,
    ⟨powerOn_queueOk cfg _, powerOn_queueOk cfg _⟩,
    ⟨powerOn_timersOk period _, powerOn_timersOk period _⟩,
    ⟨powerOn_ringsOk rx tx _, powerOn_ringsOk rx tx _⟩⟩

end Sys2Proof.Machine
end
